-- ==== Sys2Proof/Word.lean ====
section
/-! DEFINITION. The word types of the block: bytes of the two buffers, 16-bit and 32-bit registers (rule R6). -/

namespace Sys2Proof

/-- A byte: 8 bits with value 0 to 255 (rule R6). -/
abbrev Byte := BitVec 8

/-- A 16-bit register value (rules R11, R12, R17, R22). -/
abbrev Half := BitVec 16

/-- A 32-bit register value, and one word of the register window (rule R14). -/
abbrev Word := BitVec 32

end Sys2Proof
end

