-- ==== Sys2Proof/Syntax.lean ====
section
/-! DEFINITION. The four operations of rule R61 (one constructor per row of the opcode table), the registers of
rule R16 by name, and what can act on the block from outside: a host access, the block's own turn, the reset input. -/

namespace Sys2Proof

/-- The two byte buffers of rules R26 and R27; field `b` of the command byte selects one (rule R61: 0 = `IBUF`, 1 = `OBUF`). -/
inductive Buffer where
  | ibuf
  | obuf
deriving DecidableEq, Repr

/-- The operations of rule R61. CVS is no processor: an "instruction" is one host-started operation (rule R1), and
the operands but `b` are in registers and buffers (rule R62). -/
inductive Instr where
  | strip
  | lldec
  | crc16 (b : Buffer)
  | mfr
deriving DecidableEq, Repr

/-- The 26 registers of rule R16, by name. -/
inductive Reg where
  | cmd | status | hint | ilen | arg0 | arg1 | cursor | olen | result
  | errKind | errCause | errBlock | errExp | errAct
  | llLength | llControl | llManuf | llAddress | llVersion | llDevtype
  | llRawaddrLo | llRawaddrHi | llRawafLo | llRawafHi | llMfrcode | llAfield
deriving DecidableEq, Repr

/-- One access of the host (rules R14, R26, R27, R42, R45). A register access names its byte offset from `REG_BASE`
and its size in bytes; a buffer access is one byte at an offset of the buffer's window (a wider access is the same as
its bytes accessed one by one, rule R42). -/
inductive Access where
  | readReg (offset size : Nat)
  | writeReg (offset size : Nat) (value : Word)
  | readBuf (b : Buffer) (i : Nat)
  | writeBuf (b : Buffer) (i : Nat) (value : Byte)
deriving DecidableEq, Repr

/-- What happens next to the block (rule R47: two agents; rule R190: the reset input). `block` gives the block its
turn: a running operation ends there. How many host accesses come before it is the operation's latency, which the
spec leaves open (rule R198). -/
inductive Input where
  | host (a : Access)
  | block
  | reset
deriving DecidableEq, Repr

end Sys2Proof
end

