-- ==== Sys2Proof/Config.lean ====
section
/-! DEFINITION. What one instance of the block fixes (rule R5: the named parameters, whose values for CVS are
Machine/Instance.lean's `cvs`), and the values the spec leaves open, as constants without a body. -/

namespace Sys2Proof

/-- `HINT_FALSE_POLICY` (rules R5 and R120): what the hint FALSE does to a wireless frame. -/
inductive HintFalsePolicy where
  | bypass
  | strict
deriving DecidableEq, Repr

/-- The parameters of rule R5 that a rule of semantics reads. The bus bases and the latency are OPEN there; the
bases are `Config.regBase`, `Config.ibufBase`, `Config.obufBase`, and the latency is the place of `Input.block` in the script. -/
structure Params where
  ibufCap : Nat
  obufCap : Nat
  crcPoly : Half
  crcInit : Half
  crcXorOut : Half
  crcMsbFirst : Bool
  crcWireHighFirst : Bool
  crcLen : Nat
  llLen : Nat
  wiredLlLen : Nat
  aBlock : Nat
  bBlock1 : Nat
  minBlock : Nat
  aMinL : Nat
  wiredStart : Byte
  wiredStop : Byte
  hintFalsePolicy : HintFalsePolicy
deriving DecidableEq, Repr

/-- `REG_BASE` (rule R5: OPEN, the integrator's). No semantics depends on it (rule R14). -/
opaque Config.regBase : Nat

/-- `IBUF_BASE` (rule R5: OPEN, the integrator's). -/
opaque Config.ibufBase : Nat

/-- `OBUF_BASE` (rule R5: OPEN, the integrator's). -/
opaque Config.obufBase : Nat

/-- A free value: the byte that buffer `b` holds at offset `i` where the spec leaves it unspecified (rules R26, R27,
R124), drawn once per generation `gen` of the buffer's unspecified contents. Log entry 2. -/
opaque Config.unspecifiedByte (b : Buffer) (gen i : Nat) : Byte

/-- A free value: what the `n`-th host read during `BUSY = 1` returns where rule R44 leaves it unspecified. Log entry 5. -/
opaque Config.busyRead (n : Nat) : Word

end Sys2Proof
end

