-- ==== Sys2Proof/WellFormed.lean ====
section
/-! DEFINITION. Which instructions, accesses and inputs are well formed: the checks the syntax's types do not make. -/

namespace Sys2Proof

/-- Every term of `Instr` is well formed: the one field, CRC16's buffer select, has no value outside the encoding
(rule R61). There is nothing to check, so there is no ill-formed instruction. -/
def Instr.wellFormed : Instr → Bool
  | .strip => true
  | .lldec => true
  | .crc16 .ibuf => true
  | .crc16 .obuf => true
  | .mfr => true

/-- A register access is one aligned 32-bit word (rules R14 and R42). -/
def Access.wordAligned (offset size : Nat) : Bool := size == 4 && offset % 4 == 0

/-- The capacity of a buffer (rules R5, R26, R27). -/
def Params.cap (p : Params) : Buffer → Nat
  | .ibuf => p.ibufCap
  | .obuf => p.obufCap

/-- A host access the spec defines: a register access that is neither narrower than a register nor spans two
(rule R42), or a buffer access inside the buffer's window (rule R45). -/
def Access.wellFormed (p : Params) : Access → Bool
  | .readReg offset size => Access.wordAligned offset size
  | .writeReg offset size _ => Access.wordAligned offset size
  | .readBuf b i => decide (i < p.cap b)
  | .writeBuf b i _ => decide (i < p.cap b)

/-- An input the spec defines: a well-formed access, the block's turn, or reset. -/
def Input.wellFormed (p : Params) : Input → Bool
  | .host a => a.wellFormed p
  | .block => true
  | .reset => true

end Sys2Proof
end

