-- ==== Sys2Proof/Decode.lean ====
section
/-! DEFINITION. The command byte (rules R61 and R75): a total decoder that rejects by name, the encoder, the opcode
table's match and mask, and the register file's index map (rules R14 and R16). -/

namespace Sys2Proof

/-- Why a command byte is reserved (rule R75). -/
inductive DecodeError where
  | reservedBits (rsv : BitVec 3)
  | reservedOp (op : BitVec 4)
  | strayBufferSelect (op : BitVec 4)
deriving DecidableEq, Repr

/-- Field `rsv` = bits 7:5 of the command byte (rule R61). -/
def cmdRsv (b : Byte) : BitVec 3 := b.extractLsb' 5 3

/-- Field `b` = bit 4 of the command byte (rule R61). -/
def cmdSel (b : Byte) : Bool := b.getLsbD 4

/-- Field `OP` = bits 3:0 of the command byte (rule R61). -/
def cmdOp (b : Byte) : BitVec 4 := b.extractLsb' 0 4

/-- The buffer a select bit names (rule R61: 0 = `IBUF`, 1 = `OBUF`). -/
def bufferOfSel : Bool → Buffer
  | false => .ibuf
  | true => .obuf

/-- The select bit of a buffer (rule R61). -/
def selOfBuffer : Buffer → Bool
  | .ibuf => false
  | .obuf => true

/-- An operation that takes no buffer select: bit 4 must be 0 (rule R61). -/
def decodePlain (b : Byte) (i : Instr) : Except DecodeError Instr :=
  if cmdSel b then .error (.strayBufferSelect (cmdOp b)) else .ok i

/-- The operation a command byte encodes, or why it is reserved (rules R61 and R75). -/
def decode (b : Byte) : Except DecodeError Instr :=
  if cmdRsv b ≠ 0 then .error (.reservedBits (cmdRsv b))
  else if cmdOp b = 1 then decodePlain b .strip
  else if cmdOp b = 2 then decodePlain b .lldec
  else if cmdOp b = 3 then .ok (.crc16 (bufferOfSel (cmdSel b)))
  else if cmdOp b = 4 then decodePlain b .mfr
  else .error (.reservedOp (cmdOp b))

/-- The operation code of an operation (rule R61). -/
def opOf : Instr → BitVec 4
  | .strip => 1
  | .lldec => 2
  | .crc16 _ => 3
  | .mfr => 4

/-- The buffer select of an operation's encoding: 0 but for CRC16 on `OBUF` (rule R61). -/
def selOf : Instr → Bool
  | .strip => false
  | .lldec => false
  | .crc16 b => selOfBuffer b
  | .mfr => false

/-- The command byte of an operation: `{rsv = 000, b, OP}` (rule R61). -/
def encode (i : Instr) : Byte := 0#3 ++ BitVec.ofBool (selOf i) ++ opOf i

/-- Column "match" of rule R61's operation table. -/
def tableMatch : Instr → Byte
  | .strip => 0x01
  | .lldec => 0x02
  | .crc16 _ => 0x03
  | .mfr => 0x04

/-- Column "mask" of rule R61's operation table. -/
def tableMask : Instr → Byte
  | .strip => 0xFF
  | .lldec => 0xFF
  | .crc16 _ => 0xEF
  | .mfr => 0xFF

/-- The command byte that the opcode table's bits `w` of a row of `nbits` bits stand for: one byte, the bits above
`nbits` zero. -/
def tableByte (nbits w : Nat) : Byte := BitVec.ofNat 8 (w % 2 ^ nbits)

/-- The instruction the decoder reads from the table's word. -/
def decodeTableWord (nbits w : Nat) : Option Instr := (decode (tableByte nbits w)).toOption

/-- The index of a register (rule R16); its byte offset from `REG_BASE` is 4 times the index (rule R14). -/
def Reg.index : Reg → Nat
  | .cmd => 0
  | .status => 1
  | .hint => 2
  | .ilen => 3
  | .arg0 => 4
  | .arg1 => 5
  | .cursor => 6
  | .olen => 7
  | .result => 8
  | .errKind => 9
  | .errCause => 10
  | .errBlock => 11
  | .errExp => 12
  | .errAct => 13
  | .llLength => 16
  | .llControl => 17
  | .llManuf => 18
  | .llAddress => 19
  | .llVersion => 20
  | .llDevtype => 21
  | .llRawaddrLo => 22
  | .llRawaddrHi => 23
  | .llRawafLo => 24
  | .llRawafHi => 25
  | .llMfrcode => 26
  | .llAfield => 27

/-- All registers, in the order of their indices (rule R16). -/
def allRegs : List Reg :=
  [.cmd, .status, .hint, .ilen, .arg0, .arg1, .cursor, .olen, .result] ++
  [.errKind, .errCause, .errBlock, .errExp, .errAct] ++
  [.llLength, .llControl, .llManuf, .llAddress, .llVersion, .llDevtype] ++
  [.llRawaddrLo, .llRawaddrHi, .llRawafLo, .llRawafHi, .llMfrcode, .llAfield]

/-- The register at an index; `none` at a reserved index (rule R14: 14, 15, and 28 and above). -/
def regAt (idx : Nat) : Option Reg := allRegs.find? (fun r => r.index == idx)

/-- The bus address of a register (rule R14). -/
def regBusAddr (r : Reg) : Nat := Config.regBase + 4 * r.index

/-- The bus address of a buffer byte (rule R45: byte `i` is at window offset `i`). -/
def bufBusAddr (b : Buffer) (i : Nat) : Nat :=
  match b with
  | .ibuf => Config.ibufBase + i
  | .obuf => Config.obufBase + i

end Sys2Proof
end

