-- ==== Sys2Proof/Machine/State.lean ====
section
/-! DEFINITION. The architectural state of the block (rule R10), its reset value (rules R30 and R190), and the
reasons a step can stop. -/

namespace Sys2Proof.Machine

/-- Why the machine stops with a fault. -/
inductive Fault where
  /-- Raised by a host access to a buffer offset outside the buffer's window (rule R45): there is no such byte.
  Safe: the model stops where the spec defines nothing. -/
  | outsideBuffer (b : Buffer) (i : Nat)
deriving DecidableEq, Repr

/-- Why the machine gives something no meaning. -/
inductive Refusal where
  /-- Raised only by an arm of `exec` that has no meaning yet; safe. -/
  | notModelled (mnemonic : String)
  /-- Raised by a host access to the register window that is not one aligned 32-bit word (rule R42: "is not defined
  by this spec and a model refuses it"). Safe: the model stops where the spec defines nothing. -/
  | partialRegisterAccess (offset size : Nat)
deriving DecidableEq, Repr

/-- `STATUS.KIND` (rule R18). The codes 5 to 7 are never produced (rule R18), so the type leaves them out. -/
inductive Kind where
  | none
  | wired
  | wirelessA
  | wirelessB
  | wirelessNoCrc
deriving DecidableEq, Repr

/-- `ERRKIND` (rule R160). -/
inductive ErrKind where
  | none
  | crcError
  | noAesKey
  | wrongAesKey
  | decryptionError
  | unexpectedState
  | unimplementedFeature
  | dataRecordCacheMissing
deriving DecidableEq, Repr

/-- `ERRCAUSE` (rule R161). The codes 13 to 15 are never produced, so the type leaves them out. -/
inductive Cause where
  | none
  | shortBuffer
  | wiredLenCopies
  | wiredLenCount
  | wiredChecksum
  | crcMismatch
  | shortBlock
  | lfieldTooSmall
  | badCmd
  | badHint
  | badLen
  | badRange
  | noFrame
deriving DecidableEq, Repr

/-- What an error reports beside its kind: `raise K(cause, block, exp, act)` of rule R8, on unbounded integers;
ending the operation narrows them (rule R164). -/
structure Failure where
  cause : Cause
  block : Nat
  exp : Nat
  act : Nat
deriving DecidableEq, Repr

/-- The link-layer result file (rule R25). The raw views are byte arrays there ("A model should hold them as arrays of
8 and 6 bytes"); the `_LO` and `_HI` registers pack them. -/
structure LinkLayer where
  length : Byte
  control : Byte
  manuf : Half
  address : Word
  version : Byte
  devtype : Byte
  rawAddress : Vector Byte 8
  rawAField : Vector Byte 6
  mfrCode : BitVec 24
  aField : Byte
deriving DecidableEq, Repr

/-- Every link-layer register 0 (rule R25: at reset, and at the start of every accepted STRIP and LLDEC). -/
def LinkLayer.zero : LinkLayer where
  length := 0
  control := 0
  manuf := 0
  address := 0
  version := 0
  devtype := 0
  rawAddress := #v[0, 0, 0, 0, 0, 0, 0, 0]
  rawAField := #v[0, 0, 0, 0, 0, 0]
  mfrCode := 0
  aField := 0

/-- The bytes of a buffer that have been written, by offset, in one canonical form: offsets strictly rising. An
unlisted offset has no written byte; what it reads as is `Sys2Proof.Machine.unlistedByte` (log entry 2). -/
abbrev Memory := List Host.Cell

/-- The canonical form of a buffer's cells. -/
abbrev Memory.wf (m : Memory) : Prop := m.Pairwise (fun c d => c.1 < d.1)

/-- Every cell of a buffer lies inside its capacity. -/
abbrev Memory.within (cap : Nat) (m : Memory) : Prop := ∀ c ∈ m, c.1 < cap

/-- The state of the block (rule R10) and, below it, the model's own fields. -/
structure State where
  /-- `CMD` (rule R19). -/
  cmd : Byte
  /-- `STATUS.BUSY` (rule R18). -/
  busy : Bool
  /-- `STATUS.DONE` (rule R18). -/
  done : Bool
  /-- `STATUS.ERR` (rule R18). -/
  err : Bool
  /-- `STATUS.OVALID` (rule R18). -/
  ovalid : Bool
  /-- `STATUS.LLVALID` (rule R18). -/
  llvalid : Bool
  /-- `STATUS.KIND` (rule R18). -/
  kind : Kind
  /-- `HINT` (rule R11). -/
  hint : BitVec 2
  /-- `ILEN` (rule R11). -/
  ilen : Half
  /-- `ARG0` (rule R11). -/
  arg0 : Half
  /-- `ARG1` (rule R11). -/
  arg1 : Half
  /-- `CURSOR` (rule R17). -/
  cursor : Half
  /-- `OLEN` (rule R12). -/
  olen : Half
  /-- `RESULT` (rule R12). -/
  result : Word
  /-- `ERRKIND` (rule R22). -/
  errKind : ErrKind
  /-- `ERRCAUSE` (rule R22). -/
  errCause : Cause
  /-- `ERRBLOCK` (rule R22). -/
  errBlock : Byte
  /-- `ERREXP` (rule R22). -/
  errExp : Half
  /-- `ERRACT` (rule R22). -/
  errAct : Half
  /-- The `LL_*` registers (rule R25). -/
  ll : LinkLayer
  /-- The written bytes of `IBUF` (rule R26). -/
  ibuf : Memory
  /-- The written bytes of `OBUF` (rule R27). -/
  obuf : Memory
  /-- The model's own: the generation of `IBUF`'s unspecified bytes (log entry 2). -/
  ibufGen : Nat
  /-- The model's own: the generation of `OBUF`'s unspecified bytes (log entry 2). -/
  obufGen : Nat
  /-- The model's own: how many host reads came during `BUSY = 1`, so that each gets a value of its own (log entry 5). -/
  busyReads : Nat
  /-- The model's own: what the host's last read returned (log entry 4). -/
  readData : Word
  /-- The model's own: the inputs still to come, the next first (log entry 1). -/
  script : List Input
deriving DecidableEq, Repr

/-- The machine right after reset: every register 0, no written byte in either buffer (rules R30 and R190), no input
to come. -/
def State.reset : State where
  cmd := 0
  busy := false
  done := false
  err := false
  ovalid := false
  llvalid := false
  kind := .none
  hint := 0
  ilen := 0
  arg0 := 0
  arg1 := 0
  cursor := 0
  olen := 0
  result := 0
  errKind := .none
  errCause := .none
  errBlock := 0
  errExp := 0
  errAct := 0
  ll := LinkLayer.zero
  ibuf := []
  obuf := []
  ibufGen := 0
  obufGen := 0
  busyReads := 0
  readData := 0
  script := []

end Sys2Proof.Machine
end

