-- ==== Sys2Proof/Machine/Instance.lean ====
section
/-! DEFINITION. The instance of the block this model is of: the values rule R5 gives its parameters. -/

namespace Sys2Proof.Machine

/-- The values of rule R5's table. -/
def cvs : Params where
  ibufCap := 512
  obufCap := 512
  crcPoly := 0x3D65
  crcInit := 0x0000
  crcXorOut := 0xFFFF
  crcMsbFirst := true
  crcWireHighFirst := true
  crcLen := 2
  llLen := 10
  wiredLlLen := 6
  aBlock := 16
  bBlock1 := 128
  minBlock := 3
  aMinL := 9
  wiredStart := 0x68
  wiredStop := 0x16
  hintFalsePolicy := .bypass

end Sys2Proof.Machine
end

