-- ==== Sys2Proof/Machine/Flags.lean ====
section
/-! DEFINITION. The codes of the enumerated registers and the status byte (rules R18, R22, R63, R160, R161). -/

namespace Sys2Proof.Machine

/-- The number of a frame kind in `STATUS` bits 7:5 (rule R18). -/
def kindCode : Kind → BitVec 3
  | .none => 0
  | .wired => 1
  | .wirelessA => 2
  | .wirelessB => 3
  | .wirelessNoCrc => 4

/-- The number of an error kind in `ERRKIND` (rule R160). -/
def errKindCode : ErrKind → BitVec 3
  | .none => 0
  | .crcError => 1
  | .noAesKey => 2
  | .wrongAesKey => 3
  | .decryptionError => 4
  | .unexpectedState => 5
  | .unimplementedFeature => 6
  | .dataRecordCacheMissing => 7

/-- The number of a cause in `ERRCAUSE` (rule R161). -/
def causeCode : Cause → BitVec 4
  | .none => 0
  | .shortBuffer => 1
  | .wiredLenCopies => 2
  | .wiredLenCount => 3
  | .wiredChecksum => 4
  | .crcMismatch => 5
  | .shortBlock => 6
  | .lfieldTooSmall => 7
  | .badCmd => 8
  | .badHint => 9
  | .badLen => 10
  | .badRange => 11
  | .noFrame => 12

/-- The kind column of rule R161: the error kind each cause belongs to. -/
def causeKind : Cause → ErrKind
  | .none => .none
  | .shortBuffer => .crcError
  | .wiredLenCopies => .crcError
  | .wiredLenCount => .crcError
  | .wiredChecksum => .crcError
  | .crcMismatch => .crcError
  | .shortBlock => .crcError
  | .lfieldTooSmall => .crcError
  | .badCmd => .unexpectedState
  | .badHint => .unexpectedState
  | .badLen => .unexpectedState
  | .badRange => .unexpectedState
  | .noFrame => .unexpectedState

/-- Register `STATUS` as the host reads it (rule R18): `{KIND, LLVALID, OVALID, ERR, DONE, BUSY}`. -/
def statusByte (s : State) : Byte :=
  kindCode s.kind ++ BitVec.ofBool s.llvalid ++ BitVec.ofBool s.ovalid ++ BitVec.ofBool s.err ++
    BitVec.ofBool s.done ++ BitVec.ofBool s.busy

/-- A hint, as register `HINT` encodes it (rule R63). -/
inductive Hint where
  | unknown
  | isTrue
  | isFalse
  | reserved
deriving DecidableEq, Repr

/-- The hint a value of `HINT` names (rule R63). -/
def hintOf (h : BitVec 2) : Hint :=
  if h = 0 then .unknown else if h = 1 then .isTrue else if h = 2 then .isFalse else .reserved

end Sys2Proof.Machine
end

