-- ==== Sys2Proof/Machine/Operands.lean ====
section
/-! DEFINITION. The operand forms: byte sequences and ranges (rule R7), the byte orders (rules R40, R41, R74), the
reads of a buffer (rules R26, R27, R50), and the buffer and length an operation reads (rules R94 and R140). -/

namespace Sys2Proof.Machine

/-- `B[i]` (rule R7). Every rule that uses it first bounds `i`; past the end it is 0. -/
def byteAt (B : List Byte) (i : Nat) : Nat := (B.getD i 0).toNat

/-- `B[a:b)` (rule R7): the half-open range, of length `b - a`. -/
def range (B : List Byte) (a b : Nat) : List Byte := (B.drop a).take (b - a)

/-- `u16le(B, i)` (rule R7). -/
def u16le (B : List Byte) (i : Nat) : Nat := byteAt B i + 2 ^ 8 * byteAt B (i + 1)

/-- `u32le(B, i)` (rule R7). -/
def u32le (B : List Byte) (i : Nat) : Nat :=
  byteAt B i + 2 ^ 8 * byteAt B (i + 1) + 2 ^ 16 * byteAt B (i + 2) + 2 ^ 24 * byteAt B (i + 3)

/-- `u16be(B, i)` (rule R7). -/
def u16be (B : List Byte) (i : Nat) : Nat := 2 ^ 8 * byteAt B i + byteAt B (i + 1)

/-- The byte written at offset `i` of a buffer, if one has been. -/
def cellAt : Memory → Nat → Option Byte
  | [], _ => none
  | (j, v) :: m, i => if i = j then some v else cellAt m i

/-- The generation of a buffer's unspecified bytes. -/
def bufGen (s : State) : Buffer → Nat
  | .ibuf => s.ibufGen
  | .obuf => s.obufGen

/-- The written bytes of a buffer. -/
def bufCells (s : State) : Buffer → Memory
  | .ibuf => s.ibuf
  | .obuf => s.obuf

/-- What an offset that nothing has written reads as: some byte, "the same on every read until written (a draw, made
once)" (rule R26), "Unspecified bytes are a draw" (rule R27). A free value, log entry 2. -/
def unlistedByte (s : State) (b : Buffer) (i : Nat) : Byte := Config.unspecifiedByte b (bufGen s b) i

/-- `IBUF[i]` and `OBUF[i]`: a single-byte read of a buffer (rule R50). -/
def bufByte (s : State) (b : Buffer) (i : Nat) : Byte := (cellAt (bufCells s b) i).getD (unlistedByte s b i)

/-- `buf[a:b)` on a buffer: the single-byte reads in ascending order (rule R50). -/
def bufRange (s : State) (b : Buffer) (lo hi : Nat) : List Byte := (List.range' lo (hi - lo)).map (bufByte s b)

/-- The input frame `B = IBUF[0:N)`, `N = ILEN` (rule R110). -/
def inputFrame (s : State) : List Byte := bufRange s .ibuf 0 s.ilen.toNat

/-- The length of the valid bytes of the buffer CRC16 reads: `ILEN` or `OLEN` (rule R94). -/
def bufLen (s : State) : Buffer → Nat
  | .ibuf => s.ilen.toNat
  | .obuf => s.olen.toNat

/-- The length of the link-layer window (rule R140): 6 for a wired frame, else 10. -/
def windowLen (p : Params) : Kind → Nat
  | .wired => p.wiredLlLen
  | .none => p.llLen
  | .wirelessA => p.llLen
  | .wirelessB => p.llLen
  | .wirelessNoCrc => p.llLen

end Sys2Proof.Machine
end

