-- ==== Sys2Proof/Machine/Ops.lean ====
section
/-! DEFINITION. The shared operations: writing a buffer, starting an operation (rule R60), ending one without error
(rule R163) and in error (rule R164), a reserved command
byte (rule R75), the operations' own start actions and STRIP's commit (rules R110, R140, R117),
and reset (rule R190). -/

namespace Sys2Proof.Machine

/-- Write one byte into a buffer's cells, keeping the offsets strictly rising. -/
def setCell : Memory → Nat → Byte → Memory
  | [], i, v => [(i, v)]
  | (j, w) :: m, i, v =>
    if i < j then (i, v) :: (j, w) :: m else if i = j then (i, v) :: m else (j, w) :: setCell m i v

/-- The cells of a buffer in which exactly the bytes `out` have been written, from offset `i` on. -/
def cellsFrom : Nat → List Byte → Memory
  | _, [] => []
  | i, v :: out => (i, v) :: cellsFrom (i + 1) out

/-- The accepted write of `CMD` (rules R19 and R60): the byte is stored, `DONE`, `ERR` and the error registers are
cleared (rule R22), and `BUSY` is set. -/
def acceptCmd (byte : Byte) (s : State) : State :=
  { s with
    cmd := byte, done := false, err := false, errKind := .none, errCause := .none, errBlock := 0, errExp := 0,
    errAct := 0, busy := true }

/-- `done`: the end of an operation without error (rule R163). `ERR` and the error registers keep the 0 they were
given at the start. -/
def finish (s : State) : State := { s with busy := false, done := true }

/-- `raise K(cause, block, exp, act)`: the end of an operation in error (rule R164), "the whole trap entry". There is
no return operation: the next accepted command clears what is written here (rule R165). -/
def raiseError (k : ErrKind) (f : Failure) (s : State) : State :=
  { s with
    errKind := k, errCause := f.cause, errBlock := BitVec.ofNat 8 f.block, errExp := BitVec.ofNat 16 f.exp,
    errAct := BitVec.ofNat 16 f.act, err := true, busy := false, done := true }

/-- A reserved command byte ends in `UNEXPECTED_STATE` with cause `BAD_CMD`, and nothing else changes (rules R75 and
R166). -/
def badCommand (s : State) : State := raiseError .unexpectedState ⟨.badCmd, 0, 0, s.cmd.toNat⟩ s

/-- The accepted write of `CMD` and the decoding of the byte (rule R60): a legal byte leaves its operation running, a
reserved byte "runs no operation and ends at once" (rule R75). -/
def writeCmd (byte : Byte) (s : State) : State :=
  match decode byte with
  | .ok _ => acceptCmd byte s
  | .error _ => badCommand (acceptCmd byte s)

/-- The start actions of STRIP (rule R110): its own results are cleared. `OBUF` becomes unspecified: a STRIP that
fails may have written part of a frame (rule R124), and one that succeeds leaves the bytes past `OLEN` unspecified
(rule R27). -/
def stripStart (s : State) : State :=
  { s with
    ovalid := false, kind := .none, olen := 0, cursor := 0, llvalid := false, ll := LinkLayer.zero, obuf := [],
    obufGen := s.obufGen + 1 }

/-- The start actions of LLDEC (rule R140). -/
def lldecStart (s : State) : State := { s with llvalid := false, ll := LinkLayer.zero }

/-- `commit(out, kind)` (rule R117): the result of STRIP, and the end of the operation. -/
def commit (out : List Byte) (kind : Kind) (s : State) : State :=
  finish { s with obuf := cellsFrom 0 out, olen := BitVec.ofNat 16 out.length, kind := kind, ovalid := true }

/-- The reset input (rule R190): every register 0, a running operation abandoned, every byte of both buffers
unspecified anew. The inputs still to come and the host's last read value are outside the block. -/
def resetInput (s : State) : State :=
  { State.reset with
    ibufGen := s.ibufGen + 1, obufGen := s.obufGen + 1, busyReads := s.busyReads, readData := s.readData,
    script := s.script }

end Sys2Proof.Machine
end

