-- ==== Sys2Proof/Machine/Bus.lean ====
section
/-! DEFINITION. The host's accesses: reading and writing the registers (rules R11 to R25) and the buffers (rules R26
and R27), idle and busy (rules R44 and R195). -/

namespace Sys2Proof.Machine

/-- Four bytes of a raw view packed with byte `j` in bits `8*j + 7 : 8*j` (rule R25). -/
def packBytes (a b c d : Byte) : Word := d ++ c ++ b ++ a

/-- A register as the host reads it: the value in the low bits, zero above (rules R14 and R16). -/
def readReg (s : State) : Reg → Word
  | .cmd => s.cmd.setWidth 32
  | .status => (statusByte s).setWidth 32
  | .hint => s.hint.setWidth 32
  | .ilen => s.ilen.setWidth 32
  | .arg0 => s.arg0.setWidth 32
  | .arg1 => s.arg1.setWidth 32
  | .cursor => s.cursor.setWidth 32
  | .olen => s.olen.setWidth 32
  | .result => s.result
  | .errKind => (errKindCode s.errKind).setWidth 32
  | .errCause => (causeCode s.errCause).setWidth 32
  | .errBlock => s.errBlock.setWidth 32
  | .errExp => s.errExp.setWidth 32
  | .errAct => s.errAct.setWidth 32
  | .llLength => s.ll.length.setWidth 32
  | .llControl => s.ll.control.setWidth 32
  | .llManuf => s.ll.manuf.setWidth 32
  | .llAddress => s.ll.address
  | .llVersion => s.ll.version.setWidth 32
  | .llDevtype => s.ll.devtype.setWidth 32
  | .llRawaddrLo => packBytes s.ll.rawAddress[0] s.ll.rawAddress[1] s.ll.rawAddress[2] s.ll.rawAddress[3]
  | .llRawaddrHi => packBytes s.ll.rawAddress[4] s.ll.rawAddress[5] s.ll.rawAddress[6] s.ll.rawAddress[7]
  | .llRawafLo => packBytes s.ll.rawAField[0] s.ll.rawAField[1] s.ll.rawAField[2] s.ll.rawAField[3]
  | .llRawafHi => packBytes s.ll.rawAField[4] s.ll.rawAField[5] 0 0
  | .llMfrcode => s.ll.mfrCode.setWidth 32
  | .llAfield => s.ll.aField.setWidth 32

/-- A host write of a register while the block is idle: the six writable registers keep the value's low bits (rules
R11, R17, R19), every other register ignores it (rules R12, R18, R22, R25, R175). -/
def writeReg (r : Reg) (v : Word) (s : State) : State :=
  match r with
  | .cmd => writeCmd (v.setWidth 8) s
  | .hint => { s with hint := v.setWidth 2 }
  | .ilen => { s with ilen := v.setWidth 16 }
  | .arg0 => { s with arg0 := v.setWidth 16 }
  | .arg1 => { s with arg1 := v.setWidth 16 }
  | .cursor => { s with cursor := v.setWidth 16 }
  | .status => s
  | .olen => s
  | .result => s
  | .errKind => s
  | .errCause => s
  | .errBlock => s
  | .errExp => s
  | .errAct => s
  | .llLength => s
  | .llControl => s
  | .llManuf => s
  | .llAddress => s
  | .llVersion => s
  | .llDevtype => s
  | .llRawaddrLo => s
  | .llRawaddrHi => s
  | .llRawafLo => s
  | .llRawafHi => s
  | .llMfrcode => s
  | .llAfield => s

/-- A host write of a buffer byte while the block is idle: `IBUF` takes it (rule R26), `OBUF` ignores it (rule R27). -/
def writeBuf (b : Buffer) (i : Nat) (v : Byte) (s : State) : State :=
  match b with
  | .ibuf => { s with ibuf := setCell s.ibuf i v }
  | .obuf => s

/-- What a host read of the register at index `idx` returns while the block is busy (rule R44): `STATUS` shows "the
state before the accepted `CMD` write with `BUSY = 1`" (log entry 6), any other register an unspecified value (log entry
5); a reserved index reads as 0 (rule R14, log entry 7). -/
def busyReadReg (s : State) (idx : Nat) : Word :=
  match regAt idx with
  | some .status => (statusByte s).setWidth 32
  | some _ => Config.busyRead s.busyReads
  | none => 0

/-- What a host read of the register at index `idx` returns while the block is idle (rules R14 and R16). -/
def idleReadReg (s : State) (idx : Nat) : Word :=
  match regAt idx with
  | some r => readReg s r
  | none => 0

/-- A host read: the value goes to the host and nothing of the block changes (rule R43). -/
def hostRead (idle busy : Word) (s : State) : State :=
  if s.busy then { s with readData := busy, busyReads := s.busyReads + 1 } else { s with readData := idle }

/-- A host write: ignored while the block is busy (rule R195). -/
def hostWrite (w : State → State) (s : State) : State := if s.busy then s else w s

/-- A host write of the register at index `idx` while the block is idle; a reserved index ignores it (rule R14). -/
def writeRegAt (idx : Nat) (v : Word) (s : State) : State :=
  match regAt idx with
  | some r => writeReg r v s
  | none => s

/-- One host access (rules R42, R45): a register access that is not one aligned word is refused, a buffer offset
outside the window faults. -/
def hostAccess (p : Params) (a : Access) (s : State) : Host.Outcome State Fault Refusal :=
  match a with
  | .readReg offset size =>
    if Access.wordAligned offset size then
      .next (hostRead (idleReadReg s (offset / 4)) (busyReadReg s (offset / 4)) s)
    else .refused (.partialRegisterAccess offset size)
  | .writeReg offset size v =>
    if Access.wordAligned offset size then .next (hostWrite (writeRegAt (offset / 4) v) s)
    else .refused (.partialRegisterAccess offset size)
  | .readBuf b i =>
    if i < p.cap b then
      .next (hostRead ((bufByte s b i).setWidth 32) (((Config.busyRead s.busyReads).setWidth 8).setWidth 32) s)
    else .fault (.outsideBuffer b i)
  | .writeBuf b i v =>
    if i < p.cap b then .next (hostWrite (writeBuf b i v) s) else .fault (.outsideBuffer b i)

end Sys2Proof.Machine
end

