-- ==== Sys2Proof/Machine/Crc.lean ====
section
/-! DEFINITION. The CRC engine: the pure functions of rules R90 to R92 and operation CRC16 (rule R94). -/

namespace Sys2Proof.Machine

/-- One shift of the CRC register (rule R90). -/
def crcShift (p : Params) (r : Half) : Half := if r.msb then (r <<< 1) ^^^ p.crcPoly else r <<< 1

/-- The order in which a message byte's bits enter the register (rule R5, `CRC_MSB_FIRST`). For the value false the
spec gives no algorithm: the reflected one, log entry 8. -/
def crcBitOrder (p : Params) (b : Byte) : Byte := if p.crcMsbFirst then b else b.reverse

/-- One message byte enters the CRC register at the top and is shifted through (rule R90). -/
def crcByte (p : Params) (r : Half) (b : Byte) : Half :=
  Nat.repeat (crcShift p) 8 (r ^^^ ((crcBitOrder p b).setWidth 16 <<< 8))

/-- The CRC register after a byte sequence, bytes in ascending offset (rule R90). -/
def crcRegister (p : Params) (M : List Byte) : Half := M.foldl (crcByte p) p.crcInit

/-- `crc16(M)` (rule R90). -/
def crc16 (p : Params) (M : List Byte) : Half :=
  (if p.crcMsbFirst then crcRegister p M else (crcRegister p M).reverse) ^^^ p.crcXorOut

/-- `stored(B, i)`: a CRC stored in a frame (rules R41 and R91). -/
def storedCrc (p : Params) (B : List Byte) (i : Nat) : Half :=
  BitVec.ofNat 16 (if p.crcWireHighFirst then u16be B i else u16le B i)

/-- `sum8(M)`: the wired frame's additive checksum, modulo 256 (rule R92). -/
def sum8 (M : List Byte) : Byte := BitVec.ofNat 8 (M.map BitVec.toNat).sum

/-- Operation CRC16 ends in error: `RESULT` is 0 and the kind is `UNEXPECTED_STATE` (rule R94). -/
def crc16Fail (f : Failure) (s : State) : State := raiseError .unexpectedState f { s with result := 0 }

/-- Operation CRC16 once the buffer is known to be readable: the range test and the checksum (rule R94). -/
def crc16Range (p : Params) (b : Buffer) (s : State) : State :=
  if s.arg0.toNat > s.arg1.toNat ∨ s.arg1.toNat > bufLen s b then
    crc16Fail ⟨.badRange, 0, bufLen s b, s.arg1.toNat⟩ s
  else
    finish { s with result := (crc16 p (bufRange s b s.arg0.toNat s.arg1.toNat)).setWidth 32 }

/-- Operation CRC16 (rule R94) of an instance with parameters `p`. -/
def runCrc16 (p : Params) (b : Buffer) (s : State) : State :=
  match b with
  | .ibuf => if s.ilen.toNat > p.ibufCap then crc16Fail ⟨.badLen, 0, p.ibufCap, s.ilen.toNat⟩ s else crc16Range p b s
  | .obuf => if s.ovalid then crc16Range p b s else crc16Fail ⟨.noFrame, 0, 0, 0⟩ s

/-- CRC16 (rule R94). -/
def execCrc16 (b : Buffer) (s : State) : Host.Outcome State Fault Refusal := .next (runCrc16 cvs b s)

end Sys2Proof.Machine
end

