-- ==== Sys2Proof/Machine/Deframer.lean ====
section
/-! DEFINITION. The frame de-framer: the frame formats of rules R65 to R69 and operation STRIP (rules R110 to R121). -/

namespace Sys2Proof.Machine

/-- What a check of a frame answers: the stripped bytes, or why it failed (rules R113, R115, R116). -/
inductive Check where
  | ok (out : List Byte)
  | fail (f : Failure)
deriving DecidableEq, Repr

/-- How STRIP ends once its preconditions hold (rule R110): a commit, or `CRC_ERROR`. -/
inductive Verdict where
  | commit (out : List Byte) (kind : Kind)
  | crcError (f : Failure)
deriving DecidableEq, Repr

/-- `is_wired(B)` (rule R65). -/
def isWired (p : Params) (B : List Byte) : Bool :=
  decide (5 ≤ B.length) && byteAt B 0 == p.wiredStart.toNat && byteAt B 3 == p.wiredStart.toNat &&
    byteAt B (B.length - 1) == p.wiredStop.toNat

/-- `check_wired(B)` (rule R113). -/
def checkWired (B : List Byte) : Check :=
  if byteAt B 1 ≠ byteAt B 2 then .fail ⟨.wiredLenCopies, 0, byteAt B 1, byteAt B 2⟩
  else if byteAt B 1 + 6 ≠ B.length then .fail ⟨.wiredLenCount, 0, byteAt B 1 + 6, B.length⟩
  else if (sum8 (range B 4 (B.length - 2))).toNat ≠ byteAt B (B.length - 2) then
    .fail ⟨.wiredChecksum, 0, (sum8 (range B 4 (B.length - 2))).toNat, byteAt B (B.length - 2)⟩
  else .ok (range B 0 (B.length - 2))

/-- One CRC-protected block: `n` data bytes at offset `a` of `B`, their CRC after them (`crc_ok` of rule R91; the
failure of rules R115 and R116). -/
def checkBlock (p : Params) (B : List Byte) (block a n : Nat) : Check :=
  if crc16 p (range B a (a + n)) = storedCrc p B (a + n) then .ok (range B a (a + n))
  else .fail ⟨.crcMismatch, block, (crc16 p (range B a (a + n))).toNat, (storedCrc p B (a + n)).toNat⟩

/-- Go on with the stripped bytes of a check that passed. -/
def Check.andThen (c : Check) (k : List Byte → Check) : Check :=
  match c with
  | .ok out => k out
  | .fail f => .fail f

/-- A block of Type B: bytes `a` to `a + len`, its CRC in the last two, at least `MIN_BLOCK` long (rules R68, R115). -/
def checkBlockB (p : Params) (B : List Byte) (block a len : Nat) : Check :=
  if len < p.minBlock then .fail ⟨.shortBlock, block, p.minBlock, len⟩ else checkBlock p B block a (len - p.crcLen)

/-- `check_type_b(B)` (rule R115). -/
def checkTypeB (p : Params) (B : List Byte) : Check :=
  (checkBlockB p B 1 0 (min B.length p.bBlock1)).andThen fun out1 =>
    if B.length > p.bBlock1 then
      (checkBlockB p B 2 p.bBlock1 (B.length - p.bBlock1)).andThen fun out2 => .ok (out1 ++ out2)
    else .ok out1

/-- The expected total length `E = L + 1` (rule R66). -/
def expectedLen (l : Nat) : Nat := l + 1

/-- `nb = ceil(D / 16)`, the data blocks of a Type A frame with `D` data bytes (rule R67). -/
def typeABlockCount (p : Params) (d : Nat) : Nat := (d + (p.aBlock - 1)) / p.aBlock

/-- `T`, the bytes of a Type A frame with its CRCs (rule R67). -/
def typeATotal (p : Params) (l nb : Nat) : Nat := l + 1 + p.crcLen * (1 + nb)

/-- The data blocks `k` to `nb` of a Type A frame in ascending order, `m` of them left, `D` data bytes in the frame;
`out` is what the blocks before gave (rule R116). -/
def checkBlocksA (p : Params) (B : List Byte) (d : Nat) : (m k : Nat) → (out : List Byte) → Check
  | 0, _, out => .ok out
  | m + 1, k, out =>
    (checkBlock p B k (p.llLen + p.crcLen + (p.aBlock + p.crcLen) * (k - 1))
      (min p.aBlock (d - p.aBlock * (k - 1)))).andThen fun data => checkBlocksA p B d m (k + 1) (out ++ data)

/-- `check_type_a(B)` (rule R116), for the L-field `l`, `d` data bytes and `nb` data blocks. -/
def checkTypeAOf (p : Params) (B : List Byte) (l d nb : Nat) : Check :=
  if l < p.aMinL then .fail ⟨.lfieldTooSmall, 0, p.aMinL, l⟩
  else if B.length < typeATotal p l nb then .fail ⟨.shortBuffer, 0, typeATotal p l nb, B.length⟩
  else (checkBlock p B 0 0 p.llLen).andThen fun out => checkBlocksA p B d nb 1 out

/-- `D = L - 9`, the data bytes after the link-layer block (rule R67). -/
def typeADataLen (p : Params) (l : Nat) : Nat := l + 1 - p.llLen

/-- `check_type_a(B)` (rule R116). -/
def checkTypeA (p : Params) (B : List Byte) : Check :=
  checkTypeAOf p B (byteAt B 0) (typeADataLen p (byteAt B 0)) (typeABlockCount p (typeADataLen p (byteAt B 0)))

/-- The check a wireless frame that is long enough gets, and the kind it has if it passes (rules R66, R115, R116). -/
def checkWireless (p : Params) (B : List Byte) : Check × Kind :=
  if B.length = expectedLen (byteAt B 0) then (checkTypeB p B, .wirelessB) else (checkTypeA p B, .wirelessA)

/-- What STRIP makes of a wireless frame (rules R110, R114, R119, R120, R121). -/
def deframeWireless (p : Params) (h : Hint) (B : List Byte) : Verdict :=
  if B.length < expectedLen (byteAt B 0) then .crcError ⟨.shortBuffer, 0, expectedLen (byteAt B 0), B.length⟩
  else if h = .isFalse ∧ p.hintFalsePolicy = .bypass then .commit B .wirelessNoCrc
  else
    match checkWireless p B with
    | (.ok out, kind) => .commit out kind
    | (.fail f, _) => if h = .unknown then .commit B .wirelessNoCrc else .crcError f

/-- What STRIP makes of an input frame, its length and hint being legal (rules R110 and R111). -/
def deframe (p : Params) (h : Hint) (B : List Byte) : Verdict :=
  if B.length = 0 then .crcError ⟨.shortBuffer, 0, 1, 0⟩
  else if isWired p B then
    match checkWired B with
    | .ok out => .commit out .wired
    | .fail f => .crcError f
  else deframeWireless p h B

/-- The end of STRIP that a verdict calls for (rules R117 and R164). -/
def endStrip (v : Verdict) (s : State) : State :=
  match v with
  | .commit out kind => commit out kind s
  | .crcError f => raiseError .crcError f s

/-- Operation STRIP after its start actions (rule R110). -/
def stripBody (p : Params) (s : State) : State :=
  if s.ilen.toNat > p.ibufCap then raiseError .unexpectedState ⟨.badLen, 0, p.ibufCap, s.ilen.toNat⟩ s
  else if hintOf s.hint = .reserved then raiseError .unexpectedState ⟨.badHint, 0, 0, 3⟩ s
  else endStrip (deframe p (hintOf s.hint) (inputFrame s)) s

/-- Operation STRIP (rule R110) of an instance with parameters `p`. -/
def runStrip (p : Params) (s : State) : State := stripBody p (stripStart s)

/-- STRIP (rule R110). -/
def execStrip (s : State) : Host.Outcome State Fault Refusal := .next (runStrip cvs s)

end Sys2Proof.Machine
end

