-- ==== Sys2Proof/Machine/LinkLayer.lean ====
section
/-! DEFINITION. The link-layer header parser: operations LLDEC (rules R140 to R144) and MFR (rules R145 and R146). -/

namespace Sys2Proof.Machine

/-- `mfr(v)` (rule R145): the three character codes, the first not masked. -/
def mfrCodes (v : Half) : Nat × Nat × Nat :=
  (v.toNat / 2 ^ 10 + 64, v.toNat / 2 ^ 5 % 2 ^ 5 + 64, v.toNat % 2 ^ 5 + 64)

/-- `pack3(c1, c2, c3)` (rule R143). -/
def pack3 (c : Nat × Nat × Nat) : Nat := c.1 + 2 ^ 8 * c.2.1 + 2 ^ 16 * c.2.2

/-- `decode_wireless(W)`: the scalar fields, the raw views and the manufacturer code (rules R141, R142, R143). -/
def decodeWireless (W : List Byte) : LinkLayer where
  length := W.getD 0 0
  control := W.getD 1 0
  manuf := BitVec.ofNat 16 (u16le W 2)
  address := BitVec.ofNat 32 (u32le W 4)
  version := W.getD 8 0
  devtype := W.getD 9 0
  rawAddress := #v[W.getD 2 0, W.getD 3 0, W.getD 4 0, W.getD 5 0, W.getD 6 0, W.getD 7 0, W.getD 8 0, W.getD 9 0]
  rawAField := #v[W.getD 4 0, W.getD 5 0, W.getD 6 0, W.getD 7 0, W.getD 8 0, W.getD 9 0]
  mfrCode := BitVec.ofNat 24 (pack3 (mfrCodes (BitVec.ofNat 16 (u16le W 2))))
  aField := 0

/-- `decode_wired(W)` (rule R144): every other `LL_*` register stays 0. -/
def decodeWired (W : List Byte) : LinkLayer :=
  { LinkLayer.zero with length := W.getD 1 0, control := W.getD 4 0, aField := W.getD 5 0 }

/-- The link layer of a window, by the kind STRIP latched (rule R140). -/
def decodeWindow (k : Kind) (W : List Byte) : LinkLayer :=
  match k with
  | .wired => decodeWired W
  | .none => decodeWireless W
  | .wirelessA => decodeWireless W
  | .wirelessB => decodeWireless W
  | .wirelessNoCrc => decodeWireless W

/-- Operation LLDEC after its start actions (rule R140); the bound is on unbounded integers (rule R17). -/
def lldecBody (p : Params) (s : State) : State :=
  let e := s.cursor.toNat + windowLen p s.kind
  if s.ovalid = false then raiseError .unexpectedState ⟨.noFrame, 0, 0, 0⟩ s
  else if e > s.olen.toNat then raiseError .crcError ⟨.shortBuffer, 0, e, s.olen.toNat⟩ s
  else
    finish { s with
      ll := decodeWindow s.kind (bufRange s .obuf s.cursor.toNat e), llvalid := true, cursor := BitVec.ofNat 16 e }

/-- Operation LLDEC (rule R140) of an instance with parameters `p`. -/
def runLldec (p : Params) (s : State) : State := lldecBody p (lldecStart s)

/-- LLDEC (rule R140). -/
def execLldec (s : State) : Host.Outcome State Fault Refusal := .next (runLldec cvs s)

/-- Operation MFR (rule R146). -/
def runMfr (s : State) : State := finish { s with result := BitVec.ofNat 32 (pack3 (mfrCodes s.arg0)) }

/-- MFR (rule R146). -/
def execMfr (s : State) : Host.Outcome State Fault Refusal := .next (runMfr s)

end Sys2Proof.Machine
end

