-- ==== Sys2Proof/Machine/Dispatch.lean ====
section
/-! DEFINITION. Every operation's meaning, one arm per constructor. -/

namespace Sys2Proof.Machine

def exec (i : Instr) (s : State) : Host.Outcome State Fault Refusal :=
  match i with
  | .strip => Sys2Proof.Machine.execStrip s
  | .lldec => Sys2Proof.Machine.execLldec s
  | .crc16 b => Sys2Proof.Machine.execCrc16 b s
  | .mfr => Sys2Proof.Machine.execMfr s

end Sys2Proof.Machine
end

