-- ==== Sys2Proof/Machine/Sequencer.lean ====
section
/-! DEFINITION. The operation sequencer: the block's turn (fetch from `CMD`, decode, execute), and which agent acts
next (rules R47, R49, R60, R75, R194). -/

namespace Sys2Proof.Machine

/-- The running operation ends: the byte sampled in `CMD` is decoded and the operation takes its whole effect (rules
R60, R47, R194). In no run is a reserved byte in `CMD` while `BUSY = 1`, since its write ends at once (rule R75). -/
def runOperation (s : State) : Host.Outcome State Fault Refusal :=
  match decode s.cmd with
  | .ok i => exec i s
  | .error _ => .next (badCommand s)

/-- The block's turn: it acts only while an operation runs (rule R47), else all state is retained (rule R176). -/
def blockTurn (s : State) : Host.Outcome State Fault Refusal := if s.busy then runOperation s else .next s

/-- One input taken by the machine. -/
def takeInput (p : Params) (x : Input) (s : State) : Host.Outcome State Fault Refusal :=
  match x with
  | .host a => hostAccess p a s
  | .block => blockTurn s
  | .reset => .next (resetInput s)

/-- The next input is taken off the script; with no input to come a running operation ends by itself (rule R198) and
an idle block stays as it is (rule R176). -/
def advance (p : Params) (s : State) : Host.Outcome State Fault Refusal :=
  match s.script with
  | [] => blockTurn s
  | x :: rest => takeInput p x { s with script := rest }

/-- The state in which a command byte has been accepted and is still to be decoded, the block's turn next. -/
def withCommand (byte : Byte) (s : State) : State := { acceptCmd byte s with script := .block :: s.script }

end Sys2Proof.Machine
end

