-- ==== Sys2Proof/Machine/Step.lean ====
section
/-! DEFINITION. One step of the machine, and the state in which the next step runs a given command byte. -/

namespace Sys2Proof.Machine

/-- One step: the next input of the script, or the block's turn (rules R47 and R194). -/
def step (s : State) : Host.Outcome State Fault Refusal := advance cvs s

/-- `s` with the table's word as the accepted command, so that the next step runs it (log entry 3). -/
def State.withFetchWord (s : State) (nbits w : Nat) : State := withCommand (tableByte nbits w) s

end Sys2Proof.Machine
end

