-- ==== Sys2Proof/Safety.lean ====
section
/-! DEFINITION. What a safe state and a safe run are: the invariants the rules state for every reachable state, and
the operations' end. -/

namespace Sys2Proof.Machine

/-- The relations between the status flags, the command, the error registers and the result registers that rules R12,
R18, R22, R23, R25, R75 and R161 state for every reachable state. -/
structure State.StatusInv (s : State) : Prop where
  /-- "`BUSY = 1` implies `DONE = 0`" (rule R18). -/
  busy_not_done : s.busy = true → s.done = false
  /-- A running operation is one of the four: a reserved byte "runs no operation" (rule R75). -/
  busy_legal : s.busy = true → ∃ i, decode s.cmd = .ok i
  /-- "`ERR = 1` implies `DONE = 1`" (rule R18). -/
  err_done : s.err = true → s.done = true
  /-- "`OVALID = 1` exactly when `KIND != 0`" (rule R18). -/
  ovalid_iff_kind : s.ovalid = true ↔ s.kind ≠ .none
  /-- "`STATUS.ERR = 1` exactly when `ERRKIND != 0`" (rule R23). -/
  err_iff_kind : s.err = true ↔ s.errKind ≠ .none
  /-- The kind is the one rule R161 gives the cause. -/
  kind_of_cause : s.errKind = causeKind s.errCause
  /-- Without an error the error registers are 0 (rules R22 and R163). -/
  no_err_no_detail : s.err = false → s.errCause = .none ∧ s.errBlock = 0 ∧ s.errExp = 0 ∧ s.errAct = 0
  /-- `OLEN` is 0 unless `OVALID = 1` (rule R12). -/
  no_frame_no_len : s.ovalid = false → s.olen = 0
  /-- "all zero when `LLVALID = 0`" (rule R25). -/
  no_ll_zero : s.llvalid = false → s.ll = LinkLayer.zero
  /-- A decoded link layer comes from a stripped frame (rules R110 and R140). -/
  ll_has_frame : s.llvalid = true → s.ovalid = true

/-- The form of the two buffers (rules R26, R27, R50, R51). -/
structure State.BufferInv (s : State) : Prop where
  /-- `IBUF`'s cells are in canonical form. -/
  ibuf_wf : s.ibuf.wf
  /-- `OBUF`'s cells are in canonical form. -/
  obuf_wf : s.obuf.wf
  /-- No cell of `IBUF` lies past its capacity. -/
  ibuf_within : s.ibuf.within cvs.ibufCap
  /-- No cell of `OBUF` lies past its capacity (rule R51). -/
  obuf_within : s.obuf.within cvs.obufCap
  /-- `OLEN` is at most the capacity (rule R51). -/
  olen_le : s.olen.toNat ≤ cvs.obufCap
  /-- "it writes `OBUF[0:OLEN)` in full" (rule R51). -/
  obuf_full : ∀ i, i < s.olen.toNat → (cellAt s.obuf i).isSome = true

/-- A state in which no operation runs and the last one has ended (rules R163 and R164). -/
def State.ended (s : State) : Prop := s.busy = false ∧ s.done = true

end Sys2Proof.Machine
end

