-- ==== Sys2Proof/Certificates/Slice0/Reference.lean ====
section
/-! DEFINITION. The terms the statements are written in: the states an operation ends in, written out field by field,
and the frames of rules R65, R67 and R68 built from their data. -/

namespace Sys2Proof.Reference

open Sys2Proof.Machine

/-- A STRIP that ended in error: its own results cleared (rule R124), every byte of `OBUF` unspecified, the error
reported (rule R164). -/
def failedStrip (s : State) (kind : ErrKind) (cause : Cause) (block : Byte) (exp act : Half) : State :=
  { s with
    ovalid := false, kind := .none, olen := 0, cursor := 0, llvalid := false, ll := LinkLayer.zero, obuf := [],
    obufGen := s.obufGen + 1, errKind := kind, errCause := cause, errBlock := block, errExp := exp, errAct := act,
    err := true, busy := false, done := true }

/-- A STRIP that ended without error: `out` is in `OBUF[0:OLEN)` and every byte past it is unspecified (rules R27 and R117). -/
def committedStrip (s : State) (kind : Kind) (out : List Byte) : State :=
  { s with
    ovalid := true, kind := kind, olen := BitVec.ofNat 16 out.length, cursor := 0, llvalid := false,
    ll := LinkLayer.zero, obuf := cellsFrom 0 out, obufGen := s.obufGen + 1, busy := false, done := true }

/-- An operation other than STRIP that ended in error (rule R164). -/
def failed (s : State) (kind : ErrKind) (cause : Cause) (block : Byte) (exp act : Half) : State :=
  { s with
    errKind := kind, errCause := cause, errBlock := block, errExp := exp, errAct := act, err := true, busy := false,
    done := true }

/-- An operation has been started and has not ended: what rule R60 leaves for it to run on. -/
abbrev started (s : State) : Prop :=
  s.busy = true ∧ s.done = false ∧ s.err = false ∧ s.errKind = .none ∧ s.errCause = .none ∧ s.errBlock = 0 ∧
    s.errExp = 0 ∧ s.errAct = 0

/-- What STRIP reads is legal: `ILEN` within the capacity, `HINT` not reserved (rule R112). -/
abbrev legalInput (s : State) : Prop := s.ilen.toNat ≤ 512 ∧ s.hint ≠ 3

/-- The three marker bytes of a wired frame (rule R65). -/
abbrev wiredMarkers (B : List Byte) : Prop :=
  5 ≤ B.length ∧ byteAt B 0 = 0x68 ∧ byteAt B 3 = 0x68 ∧ byteAt B (B.length - 1) = 0x16

/-- Data bytes with their CRC after them, high byte first (rules R41 and R91). -/
def withCrc (d : List Byte) : List Byte :=
  d ++ [(crc16 cvs d).extractLsb' 8 8, (crc16 cvs d).extractLsb' 0 8]

/-- The data blocks of a Type A frame: 16 data bytes each, the last what remains (rule R67). -/
def blocksA : (nb : Nat) → (payload : List Byte) → List Byte
  | 0, _ => []
  | nb + 1, payload => withCrc (payload.take 16) ++ blocksA nb (payload.drop 16)

/-- A Type A frame of a 10-byte link-layer block and its data (rule R67). -/
def frameA (header payload : List Byte) : List Byte :=
  withCrc header ++ blocksA ((payload.length + 15) / 16) payload

/-- A Type B frame of one block, or of two (rule R68). -/
def frameB (block1 block2 : List Byte) : List Byte :=
  if block2 = [] then withCrc block1 else withCrc block1 ++ withCrc block2

/-- A wired frame around its user bytes (rule R65). -/
def frameWired (user : List Byte) : List Byte :=
  [0x68, BitVec.ofNat 8 user.length, BitVec.ofNat 8 user.length, 0x68] ++ user ++ [sum8 user, 0x16]

/-- The generator x^16 + x^13 + x^12 + x^11 + x^10 + x^8 + x^6 + x^5 + x^2 + 1 of rule R90, over GF(2). -/
noncomputable def generator : Polynomial (ZMod 2) :=
  .X ^ 16 + .X ^ 13 + .X ^ 12 + .X ^ 11 + .X ^ 10 + .X ^ 8 + .X ^ 6 + .X ^ 5 + .X ^ 2 + 1

/-- The polynomial whose coefficient of x^i is bit `i` of `v`. -/
noncomputable def bitsPoly {w : Nat} (v : BitVec w) : Polynomial (ZMod 2) :=
  ∑ i ∈ Finset.range w, if v.getLsbD i then .X ^ i else 0

/-- The polynomial of a message, the first byte's most significant bit its highest coefficient (rule R90: "most
significant bit first"). -/
noncomputable def messagePoly (M : List Byte) : Polynomial (ZMod 2) :=
  M.foldl (fun P b => P * .X ^ 8 + bitsPoly b) 0

end Sys2Proof.Reference
end

