-- ==== Sys2Proof/Certificates/Slice0/Obligations.lean ====
section
/-! DEFINITION. The statements about the machine, from the spec's numbered rules. -/

open Sys2Proof Sys2Proof.Machine Sys2Proof.Reference

/-! ### Encoding (rules R61, R75) -/

/-- Rule R61: the operation table, byte by byte; every other byte value is reserved; each row's match and mask. -/
def Obligations.CommandBytesDecode : Prop :=
  decode 0x01 = .ok .strip ∧ decode 0x02 = .ok .lldec ∧ decode 0x03 = .ok (.crc16 .ibuf) ∧
    decode 0x13 = .ok (.crc16 .obuf) ∧ decode 0x04 = .ok .mfr ∧
    (∀ b : Byte, b ∉ ([0x01, 0x02, 0x03, 0x13, 0x04] : List Byte) → ∃ e, decode b = .error e) ∧
    ∀ (b : Byte) (i : Instr), decode b = .ok i → b &&& tableMask i = tableMatch i

/-- Decoding what the encoder gives is the instruction, and only that byte decodes to it. -/
def Obligations.DecodeEncodeAgree : Prop :=
  ∀ i : Instr, i.wellFormed = true → ∀ b : Byte, decode b = .ok i ↔ b = encode i

/-- Rule R75: five byte values are legal; an accepted write of any other runs no operation and ends at once, in that
one step, in `BAD_CMD`, nothing else changed. -/
def Obligations.ReservedCommandRunsNothing : Prop :=
  (∀ b : Byte, (∃ i, decode b = .ok i) ↔ b ∈ ([0x01, 0x02, 0x03, 0x13, 0x04] : List Byte)) ∧
    ∀ (s : State) (v : Word) (rest : List Input), s.busy = false →
      v.setWidth 8 ∉ ([0x01, 0x02, 0x03, 0x13, 0x04] : List Byte) →
      s.script = .host (.writeReg 0 4 v) :: rest →
      step s = .next (failed { s with cmd := v.setWidth 8, script := rest } .unexpectedState .badCmd 0 0
        ((v.setWidth 8).setWidth 16))

/-! ### The step -/

/-- With the block's turn, or no input to come, a running operation whose command byte decodes is `exec` of the
decoded instruction, the turn taken off the script; and the host's placing of a word makes the next step run it. The
script and the placing are the model's own (log entries 1 and 3). -/
def Obligations.StepRunsDecodedInstruction : Prop :=
  ∀ (s : State) (i : Instr), i.wellFormed = true →
    (s.busy = true → decode s.cmd = .ok i →
      (s.script = [] → step s = exec i s) ∧
      ∀ rest, s.script = .block :: rest → step s = exec i { s with script := rest }) ∧
    ∀ b : Byte, decode b = .ok i → step (s.withFetchWord 8 b.toNat) = exec i (acceptCmd b s)

/-- Rule R60: the accepted write of `CMD`, what it clears and sets, the decoded operation on the state as it then
stands, and `BUSY` and `DONE` when it ends. -/
def Obligations.AcceptedCommandStartsOperation : Prop :=
  ∀ (s : State) (v : Word) (rest : List Input) (i : Instr), s.busy = false → decode (v.setWidth 8) = .ok i →
    s.script = .host (.writeReg 0 4 v) :: .block :: rest →
    ∃ s1, s1 = { s with
        cmd := v.setWidth 8, done := false, err := false, errKind := .none, errCause := .none, errBlock := 0,
        errExp := 0, errAct := 0, busy := true, script := .block :: rest } ∧
      step s = .next s1 ∧ step s1 = exec i { s1 with script := rest } ∧
      ∃ t, step s1 = .next t ∧ t.busy = false ∧ t.done = true

/-- Rule R195: a host write while `BUSY = 1` changes nothing and raises nothing. -/
def Obligations.WritesWhileBusyAreIgnored : Prop :=
  ∀ (s : State) (rest : List Input), s.busy = true →
    (∀ (idx : Nat) (v : Word), s.script = .host (.writeReg (4 * idx) 4 v) :: rest →
      step s = .next { s with script := rest }) ∧
    ∀ (b : Buffer) (i : Nat) (v : Byte), i < 512 → s.script = .host (.writeBuf b i v) :: rest →
      step s = .next { s with script := rest }

/-- Idle or busy, a host write of a read-only register, of a reserved index or of `OBUF` is ignored (rules R12, R14,
R18, R22, R25, R27). -/
def Obligations.ReadOnlyWritesAreIgnored : Prop :=
  ∀ (s : State) (rest : List Input),
    (∀ (idx : Nat) (v : Word), idx ∉ [0, 2, 3, 4, 5, 6] → s.script = .host (.writeReg (4 * idx) 4 v) :: rest →
      step s = .next { s with script := rest }) ∧
    ∀ (i : Nat) (v : Byte), i < 512 → s.script = .host (.writeBuf .obuf i v) :: rest →
      step s = .next { s with script := rest }

/-- Rule R11: the operand registers reset to 0, take the low bits of a host write while idle and keep their value
while busy, are read back, and no operation writes them; `ILEN` above the capacity can be written and is rejected by
the operation that reads it. -/
def Obligations.OperandRegistersHoldWhatTheHostWrites : Prop :=
  (State.reset.hint = 0 ∧ State.reset.ilen = 0 ∧ State.reset.arg0 = 0 ∧ State.reset.arg1 = 0) ∧
    (∀ (s : State) (v : Word) (rest : List Input), s.busy = false →
      (s.script = .host (.writeReg 8 4 v) :: rest → step s = .next { s with hint := v.setWidth 2, script := rest }) ∧
      (s.script = .host (.writeReg 12 4 v) :: rest → step s = .next { s with ilen := v.setWidth 16, script := rest }) ∧
      (s.script = .host (.writeReg 16 4 v) :: rest → step s = .next { s with arg0 := v.setWidth 16, script := rest }) ∧
      (s.script = .host (.writeReg 20 4 v) :: rest → step s = .next { s with arg1 := v.setWidth 16, script := rest })) ∧
    (∀ (s : State) (idx : Nat) (v : Word) (rest : List Input), s.busy = true → idx ∈ [2, 3, 4, 5] →
      s.script = .host (.writeReg (4 * idx) 4 v) :: rest → step s = .next { s with script := rest }) ∧
    (∀ s : State, readReg s .hint = s.hint.setWidth 32 ∧ readReg s .ilen = s.ilen.setWidth 32 ∧
      readReg s .arg0 = s.arg0.setWidth 32 ∧ readReg s .arg1 = s.arg1.setWidth 32) ∧
    (∀ (i : Instr) (s t : State), exec i s = .next t →
      t.hint = s.hint ∧ t.ilen = s.ilen ∧ t.arg0 = s.arg0 ∧ t.arg1 = s.arg1) ∧
    ∀ s : State, s.ilen.toNat > 512 →
      exec .strip s = .next (failedStrip s .unexpectedState .badLen 0 512 s.ilen) ∧
      exec (.crc16 .ibuf) s = .next (failed { s with result := 0 } .unexpectedState .badLen 0 512 s.ilen)

/-- Rules R14 and R16: while the block is idle each register is read at 4 times its index, its value in the low bits
and zero above; the reserved indices read as 0 and ignore writes. `readData` is the model's own field (log entry 4). -/
def Obligations.RegistersReadAtTheirIndex : Prop :=
  ∀ (s : State) (rest : List Input), s.busy = false →
    (∀ p ∈ ([(0, s.cmd.setWidth 32), (1, (statusByte s).setWidth 32), (2, s.hint.setWidth 32),
          (3, s.ilen.setWidth 32), (4, s.arg0.setWidth 32), (5, s.arg1.setWidth 32), (6, s.cursor.setWidth 32),
          (7, s.olen.setWidth 32), (8, s.result), (9, (errKindCode s.errKind).setWidth 32),
          (10, (causeCode s.errCause).setWidth 32), (11, s.errBlock.setWidth 32), (12, s.errExp.setWidth 32),
          (13, s.errAct.setWidth 32), (16, s.ll.length.setWidth 32), (17, s.ll.control.setWidth 32),
          (18, s.ll.manuf.setWidth 32), (19, s.ll.address), (20, s.ll.version.setWidth 32),
          (21, s.ll.devtype.setWidth 32),
          (22, s.ll.rawAddress[3] ++ s.ll.rawAddress[2] ++ s.ll.rawAddress[1] ++ s.ll.rawAddress[0]),
          (23, s.ll.rawAddress[7] ++ s.ll.rawAddress[6] ++ s.ll.rawAddress[5] ++ s.ll.rawAddress[4]),
          (24, s.ll.rawAField[3] ++ s.ll.rawAField[2] ++ s.ll.rawAField[1] ++ s.ll.rawAField[0]),
          (25, (s.ll.rawAField[5] ++ s.ll.rawAField[4]).setWidth 32), (26, s.ll.mfrCode.setWidth 32),
          (27, s.ll.aField.setWidth 32)] : List (Nat × Word)),
      s.script = .host (.readReg (4 * p.1) 4) :: rest →
        step s = .next { s with readData := p.2, script := rest }) ∧
    ∀ idx, idx = 14 ∨ idx = 15 ∨ 28 ≤ idx →
      (s.script = .host (.readReg (4 * idx) 4) :: rest → step s = .next { s with readData := 0, script := rest }) ∧
      ∀ v, s.script = .host (.writeReg (4 * idx) 4 v) :: rest → step s = .next { s with script := rest }

/-- Rule R43: no read has a side effect on the block (`readData` and `busyReads` are the model's own fields, log
entries 4 and 5); a write of a byte of `IBUF` or of an operand register or of `CURSOR` changes nothing but that byte or
register, and while busy nothing (rule R195); the write of `CMD` while `BUSY = 0` starts the operation the byte encodes. -/
def Obligations.HostAccessesHaveNoSideEffect : Prop :=
  ∀ (s t : State) (rest : List Input), step s = .next t →
    (∀ offset size, s.script = .host (.readReg offset size) :: rest →
      t = { s with readData := t.readData, busyReads := t.busyReads, script := rest }) ∧
    (∀ b i, s.script = .host (.readBuf b i) :: rest →
      t = { s with readData := t.readData, busyReads := t.busyReads, script := rest }) ∧
    (∀ i v, s.script = .host (.writeBuf .ibuf i v) :: rest →
      t = { s with ibuf := if s.busy then s.ibuf else setCell s.ibuf i v, script := rest } ∧
      (∀ j, j ≠ i → bufByte t .ibuf j = bufByte s .ibuf j) ∧ (s.busy = false → bufByte t .ibuf i = v)) ∧
    (∀ v, s.script = .host (.writeReg 8 4 v) :: rest →
      t = { s with hint := if s.busy then s.hint else v.setWidth 2, script := rest }) ∧
    (∀ v, s.script = .host (.writeReg 12 4 v) :: rest →
      t = { s with ilen := if s.busy then s.ilen else v.setWidth 16, script := rest }) ∧
    (∀ v, s.script = .host (.writeReg 16 4 v) :: rest →
      t = { s with arg0 := if s.busy then s.arg0 else v.setWidth 16, script := rest }) ∧
    (∀ v, s.script = .host (.writeReg 20 4 v) :: rest →
      t = { s with arg1 := if s.busy then s.arg1 else v.setWidth 16, script := rest }) ∧
    (∀ v, s.script = .host (.writeReg 24 4 v) :: rest →
      t = { s with cursor := if s.busy then s.cursor else v.setWidth 16, script := rest }) ∧
    ∀ (v : Word) (i : Instr), s.busy = false → decode (v.setWidth 8) = .ok i →
      s.script = .host (.writeReg 0 4 v) :: rest → started t ∧ t.cmd = encode i

/-- Rules R18 and R44: while an operation runs, whichever it is, the host can read `STATUS`, and sees `BUSY = 1`,
`DONE = 0`, `ERR = 0`, the other flags as they stand, and zero above bit 7 (rule R14); and a host that reads it right
after its accepted `CMD` write of a legal byte sees the other flags as they stood before that write. That STRIP and LLDEC
show the flags they clear only at their end is the model's reading of R44 against R18 (log entry 6); `readData` and
`busyReads` are the model's own fields (log entries 4 and 5). -/
def Obligations.StatusIsReadableWhileBusy : Prop :=
  (∀ (s : State) (rest : List Input), started s → s.script = .host (.readReg 4 4) :: rest →
    ∃ v : Word, step s = .next { s with readData := v, busyReads := s.busyReads + 1, script := rest } ∧
      v.getLsbD 0 = true ∧ v.getLsbD 1 = false ∧ v.getLsbD 2 = false ∧ v.getLsbD 3 = s.ovalid ∧
      v.getLsbD 4 = s.llvalid ∧ v.extractLsb' 5 3 = kindCode s.kind ∧ v.extractLsb' 8 24 = 0) ∧
    ∀ (s : State) (w : Word) (i : Instr) (rest : List Input), s.busy = false → decode (w.setWidth 8) = .ok i →
      s.script = .host (.writeReg 0 4 w) :: .host (.readReg 4 4) :: rest →
      ∃ (s1 : State) (v : Word), step s = .next s1 ∧
        step s1 = .next { s1 with readData := v, busyReads := s.busyReads + 1, script := rest } ∧
        v.getLsbD 0 = true ∧ v.getLsbD 1 = false ∧ v.getLsbD 2 = false ∧ v.getLsbD 3 = s.ovalid ∧
        v.getLsbD 4 = s.llvalid ∧ v.extractLsb' 5 3 = kindCode s.kind ∧ v.extractLsb' 8 24 = 0

/-- Rule R26: while the block is idle a byte the host writes to `IBUF` is what is read there, and every other byte of
both buffers is kept; an idle host read of a buffer byte returns it. That a byte of `OBUF` past `OLEN` is kept too is the
model's choice (log entry 9), and so is `readData`, which holds the byte zero-extended (log entry 4). -/
def Obligations.InputBufferHoldsWhatTheHostWrites : Prop :=
  ∀ (s : State) (i : Nat) (v : Byte) (rest : List Input), s.busy = false → i < 512 →
    (s.script = .host (.writeBuf .ibuf i v) :: rest →
      ∃ t, step s = .next t ∧ bufByte t .ibuf i = v ∧ (∀ j, j ≠ i → bufByte t .ibuf j = bufByte s .ibuf j) ∧
        ∀ j, bufByte t .obuf j = bufByte s .obuf j) ∧
    ∀ b, s.script = .host (.readBuf b i) :: rest →
      step s = .next { s with readData := (bufByte s b i).setWidth 32, script := rest }

/-- Rule R42's undefined register accesses are refused by name. That an access to a buffer offset past the window's 512
bytes faults is the model's choice (log entry 12): rule R45 gives the window's size and no outcome. -/
def Obligations.UndefinedHostAccessesStop : Prop :=
  ∀ (s : State) (rest : List Input),
    (∀ offset size, ¬(size = 4 ∧ offset % 4 = 0) →
      (s.script = .host (.readReg offset size) :: rest → step s = .refused (.partialRegisterAccess offset size)) ∧
      ∀ v, s.script = .host (.writeReg offset size v) :: rest →
        step s = .refused (.partialRegisterAccess offset size)) ∧
    ∀ b i, 512 ≤ i →
      (s.script = .host (.readBuf b i) :: rest → step s = .fault (.outsideBuffer b i)) ∧
      ∀ v, s.script = .host (.writeBuf b i v) :: rest → step s = .fault (.outsideBuffer b i)

/-- Rule R190: the reset input, in any state. -/
def Obligations.ResetInputClearsEverything : Prop :=
  ∀ (s : State) (rest : List Input), s.script = .reset :: rest →
    ∃ t, step s = .next t ∧ t.script = rest ∧ (∀ r : Reg, readReg t r = 0) ∧
      t.cmd = 0 ∧ t.busy = false ∧ t.done = false ∧ t.err = false ∧ t.ovalid = false ∧ t.llvalid = false ∧
      t.kind = .none ∧ t.hint = 0 ∧ t.ilen = 0 ∧ t.arg0 = 0 ∧ t.arg1 = 0 ∧ t.cursor = 0 ∧ t.olen = 0 ∧ t.result = 0 ∧
      t.errKind = .none ∧ t.errCause = .none ∧ t.errBlock = 0 ∧ t.errExp = 0 ∧ t.errAct = 0 ∧ t.ll = LinkLayer.zero ∧
      ∀ b i, bufByte t b i = Config.unspecifiedByte b (bufGen s b + 1) i

/-- Rule R30: the machine right after reset. -/
def Obligations.ResetStateIsZero : Prop :=
  (∀ r : Reg, readReg State.reset r = 0) ∧ statusByte State.reset = 0 ∧ State.reset.kind = .none ∧
    State.reset.errKind = .none ∧ State.reset.errCause = .none ∧ State.reset.ll = LinkLayer.zero ∧
    ∀ b i, bufByte State.reset b i = Config.unspecifiedByte b 0 i

/-- Rule R176: between operations the block is idle with all state retained; the script is the model's own (log entry
1). -/
def Obligations.IdleBlockKeepsItsState : Prop :=
  ∀ s : State, s.busy = false →
    (s.script = [] → step s = .next s) ∧ ∀ rest, s.script = .block :: rest → step s = .next { s with script := rest }

/-- Rules R163 and R164: every operation ends, `BUSY = 0` and `DONE = 1`; without error the error registers keep the 0
they were given at the start, in error the kind is the one rule R161 gives the cause. -/
def Obligations.EveryOperationEnds : Prop :=
  ∀ (i : Instr) (s : State), started s → ∃ t, exec i s = .next t ∧ t.busy = false ∧ t.done = true ∧
    (t.err = false → t.errKind = .none ∧ t.errCause = .none ∧ t.errBlock = 0 ∧ t.errExp = 0 ∧ t.errAct = 0) ∧
    (t.err = true → t.errKind = causeKind t.errCause ∧ t.errKind ≠ .none)

/-- A step whose next input is one the spec defines answers a next state. -/
def Obligations.DefinedInputsNeverStop : Prop :=
  ∀ s : State, (∀ x rest, s.script = x :: rest → x.wellFormed cvs = true) → ∃ t, step s = .next t

/-- Rule R198: `BUSY = 1` does not last for ever. The bound is the model's choice (log entry 1): a running operation has
ended at the latest one step after the inputs to come are done. -/
def Obligations.BusyDoesNotLastForEver : Prop :=
  ∀ s : State, s.busy = true → (∀ x ∈ s.script, x.wellFormed cvs = true) →
    ∃ k t, k ≤ s.script.length + 1 ∧ Host.Core.run core k s = .next t ∧ t.busy = false

/-! ### MFR and the CRC engine -/

/-- Rule R145: the three codes, their ranges and the worked examples. -/
def Obligations.ManufacturerCodes : Prop :=
  (∀ v : Half, mfrCodes v = ((v.toNat >>> 10) + 64, ((v.toNat >>> 5) &&& 0x1F) + 64, (v.toNat &&& 0x1F) + 64)) ∧
    (∀ v : Half, 64 ≤ (mfrCodes v).1 ∧ (mfrCodes v).1 ≤ 127 ∧ 64 ≤ (mfrCodes v).2.1 ∧ (mfrCodes v).2.1 ≤ 95 ∧
      64 ≤ (mfrCodes v).2.2 ∧ (mfrCodes v).2.2 ≤ 95 ∧ (0x8000 ≤ v.toNat → 96 ≤ (mfrCodes v).1)) ∧
    mfrCodes 0x1593 = (69, 76, 83) ∧ mfrCodes 0x0000 = (64, 64, 64) ∧ mfrCodes 0xFFFF = (127, 95, 95)

/-- Rule R146: MFR writes the packed codes of `ARG0` to `RESULT`, cannot fail and changes nothing else. -/
def Obligations.MfrResult : Prop :=
  ∀ s : State, exec .mfr s = .next { s with
    result := BitVec.ofNat 32
      ((s.arg0.toNat >>> 10) + 64 + 2 ^ 8 * (((s.arg0.toNat >>> 5) &&& 0x1F) + 64) +
        2 ^ 16 * ((s.arg0.toNat &&& 0x1F) + 64))
    busy := false, done := true }

/-- Rule R90: the CRC register is the remainder of the message, shifted by 16, on division by the generator over
GF(2); the checksum is its complement; the corner cases and the worked example. -/
def Obligations.CrcIsPolynomialDivision : Prop :=
  (∀ M : List Byte, ∃ r : Half, crc16 cvs M = r ^^^ 0xFFFF ∧
      ∃ q : Polynomial (ZMod 2), messagePoly M * .X ^ 16 = q * generator + bitsPoly r) ∧
    crc16 cvs [] = 0xFFFF ∧ (∀ n, crc16 cvs (List.replicate n 0) = 0xFFFF) ∧
    crc16 cvs [0x31, 0x32, 0x33, 0x34, 0x35, 0x36, 0x37, 0x38, 0x39] = 0xC2B7

/-- Rule R92: the sum of the bytes modulo 256, the empty sum and the worked examples. -/
def Obligations.AdditiveChecksum : Prop :=
  (∀ M : List Byte, (sum8 M).toNat = (M.map BitVec.toNat).sum % 256) ∧ sum8 [] = 0 ∧
    (∀ (M : List Byte) (b : Byte), sum8 (M ++ [b]) = sum8 M + b) ∧ sum8 [0x08, 0x05, 0x72] = 0x7F ∧
    sum8 [0xFF, 0x02] = 0x01

/-- Rule R94: operation CRC16, its tests in order, its result, and that nothing else changes. -/
def Obligations.Crc16Operation : Prop :=
  ∀ s : State,
    (s.ilen.toNat > 512 → exec (.crc16 .ibuf) s =
      .next (failed { s with result := 0 } .unexpectedState .badLen 0 512 s.ilen)) ∧
    (s.ovalid = false → exec (.crc16 .obuf) s =
      .next (failed { s with result := 0 } .unexpectedState .noFrame 0 0 0)) ∧
    (s.ilen.toNat ≤ 512 → s.arg0.toNat > s.arg1.toNat ∨ s.arg1.toNat > s.ilen.toNat → exec (.crc16 .ibuf) s =
      .next (failed { s with result := 0 } .unexpectedState .badRange 0 s.ilen s.arg1)) ∧
    (s.ovalid = true → s.arg0.toNat > s.arg1.toNat ∨ s.arg1.toNat > s.olen.toNat → exec (.crc16 .obuf) s =
      .next (failed { s with result := 0 } .unexpectedState .badRange 0 s.olen s.arg1)) ∧
    (s.ilen.toNat ≤ 512 → s.arg0.toNat ≤ s.arg1.toNat → s.arg1.toNat ≤ s.ilen.toNat → exec (.crc16 .ibuf) s = .next
      { s with
        result := (crc16 cvs (bufRange s .ibuf s.arg0.toNat s.arg1.toNat)).setWidth 32, busy := false, done := true }) ∧
    (s.ovalid = true → s.arg0.toNat ≤ s.arg1.toNat → s.arg1.toNat ≤ s.olen.toNat → exec (.crc16 .obuf) s = .next
      { s with
        result := (crc16 cvs (bufRange s .obuf s.arg0.toNat s.arg1.toNat)).setWidth 32, busy := false, done := true }) ∧
    ∀ b, (crc16 cvs (bufRange s b s.arg0.toNat s.arg0.toNat)).setWidth 32 = (0x0000FFFF : Word)

/-- Rule R95: CRC16 is a function of its inputs: two started operations that agree on them end alike. -/
def Obligations.Crc16DependsOnItsInputsOnly : Prop :=
  ∀ (b : Buffer) (s t : State), started s → started t → s.arg0 = t.arg0 → s.arg1 = t.arg1 →
    bufLen s b = bufLen t b → (∀ i, i < bufLen s b → bufByte s b i = bufByte t b i) →
    (b = .obuf → s.ovalid = t.ovalid) →
    ∃ s' t', exec (.crc16 b) s = .next s' ∧ exec (.crc16 b) t = .next t' ∧ s'.result = t'.result ∧ s'.err = t'.err ∧
      s'.errKind = t'.errKind ∧ s'.errCause = t'.errCause ∧ s'.errBlock = t'.errBlock ∧ s'.errExp = t'.errExp ∧
      s'.errAct = t'.errAct

/-- What CRC16 and MFR leave unchanged: every register but `RESULT`, `STATUS[2:0]` and the error registers, and every
byte of both buffers. For bytes of `OBUF` past `OLEN` that is the model's choice (log entry 9). -/
def Obligations.Crc16AndMfrFrame : Prop :=
  ∀ (i : Instr) (s t : State), (i = .mfr ∨ ∃ b, i = .crc16 b) → exec i s = .next t →
    t.cmd = s.cmd ∧ t.ovalid = s.ovalid ∧ t.llvalid = s.llvalid ∧ t.kind = s.kind ∧ t.hint = s.hint ∧
    t.ilen = s.ilen ∧ t.arg0 = s.arg0 ∧ t.arg1 = s.arg1 ∧ t.cursor = s.cursor ∧ t.olen = s.olen ∧ t.ll = s.ll ∧
    (i = .mfr → t.err = s.err ∧ t.errKind = s.errKind ∧ t.errCause = s.errCause ∧ t.errBlock = s.errBlock ∧
      t.errExp = s.errExp ∧ t.errAct = s.errAct) ∧
    t.script = s.script ∧ t.readData = s.readData ∧ ∀ b j, bufByte t b j = bufByte s b j

/-! ### The link-layer header parser -/

/-- Rule R140: operation LLDEC, its two errors in order and its success. -/
def Obligations.LldecOutcomes : Prop :=
  ∀ (s : State) (w : Nat), w = (if s.kind = .wired then 6 else 10) →
    (s.ovalid = false → exec .lldec s = .next
      (failed { s with llvalid := false, ll := LinkLayer.zero } .unexpectedState .noFrame 0 0 0)) ∧
    (s.ovalid = true → s.cursor.toNat + w > s.olen.toNat → exec .lldec s = .next
      (failed { s with llvalid := false, ll := LinkLayer.zero } .crcError .shortBuffer 0
        (BitVec.ofNat 16 (s.cursor.toNat + w)) s.olen)) ∧
    (s.ovalid = true → s.cursor.toNat + w ≤ s.olen.toNat → exec .lldec s = .next
      { s with
        ll := if s.kind = .wired then decodeWired (bufRange s .obuf s.cursor.toNat (s.cursor.toNat + 6))
          else decodeWireless (bufRange s .obuf s.cursor.toNat (s.cursor.toNat + 10))
        llvalid := true, cursor := BitVec.ofNat 16 (s.cursor.toNat + w), busy := false, done := true })

/-- Rules R141, R142 and R143: the fields LLDEC decodes from the 10-byte window of a wireless frame, and the packed
views as the host reads them. -/
def Obligations.LldecWirelessFields : Prop :=
  ∀ (s : State) (W : Nat → Byte), s.ovalid = true → s.kind ≠ .wired → s.cursor.toNat + 10 ≤ s.olen.toNat →
    (∀ j, W j = bufByte s .obuf (s.cursor.toNat + j)) →
    ∃ t, exec .lldec s = .next t ∧ t.llvalid = true ∧ t.cursor = s.cursor + 10 ∧
      t.ll.length = W 0 ∧ t.ll.control = W 1 ∧ t.ll.manuf = W 3 ++ W 2 ∧ t.ll.address = W 7 ++ W 6 ++ W 5 ++ W 4 ∧
      t.ll.version = W 8 ∧ t.ll.devtype = W 9 ∧ t.ll.aField = 0 ∧
      t.ll.rawAddress = #v[W 2, W 3, W 4, W 5, W 6, W 7, W 8, W 9] ∧
      t.ll.rawAField = #v[W 4, W 5, W 6, W 7, W 8, W 9] ∧
      readReg t .llRawaddrLo = W 5 ++ W 4 ++ W 3 ++ W 2 ∧ readReg t .llRawaddrHi = W 9 ++ W 8 ++ W 7 ++ W 6 ∧
      readReg t .llRawafLo = W 7 ++ W 6 ++ W 5 ++ W 4 ∧ readReg t .llRawafHi = (W 9 ++ W 8).setWidth 32 ∧
      t.ll.mfrCode = BitVec.ofNat 24
        (((W 3 ++ W 2).toNat >>> 10) + 64 + 2 ^ 8 * ((((W 3 ++ W 2).toNat >>> 5) &&& 0x1F) + 64) +
          2 ^ 16 * (((W 3 ++ W 2).toNat &&& 0x1F) + 64))

/-- Rule R144: the fields LLDEC decodes from the 6-byte window of a wired frame; every other `LL_*` register is 0. -/
def Obligations.LldecWiredFields : Prop :=
  ∀ s : State, s.ovalid = true → s.kind = .wired → s.cursor.toNat + 6 ≤ s.olen.toNat →
    ∃ t, exec .lldec s = .next t ∧ t.llvalid = true ∧ t.cursor = s.cursor + 6 ∧ t.ll =
      { LinkLayer.zero with
        length := bufByte s .obuf (s.cursor.toNat + 1), control := bufByte s .obuf (s.cursor.toNat + 4)
        aField := bufByte s .obuf (s.cursor.toNat + 5) }

/-- Rule R147: LLDEC is a function of `OVALID`, `KIND`, `OLEN`, `CURSOR` and the window. -/
def Obligations.LldecDependsOnItsInputsOnly : Prop :=
  ∀ s t : State, started s → started t → s.ovalid = t.ovalid → s.kind = t.kind → s.olen = t.olen →
    s.cursor = t.cursor →
    (∀ i, s.cursor.toNat ≤ i → i < s.cursor.toNat + (if s.kind = .wired then 6 else 10) →
      bufByte s .obuf i = bufByte t .obuf i) →
    ∃ s' t', exec .lldec s = .next s' ∧ exec .lldec t = .next t' ∧ s'.ll = t'.ll ∧ s'.llvalid = t'.llvalid ∧
      s'.cursor = t'.cursor ∧ s'.err = t'.err ∧ s'.errKind = t'.errKind ∧ s'.errCause = t'.errCause ∧
      s'.errBlock = t'.errBlock ∧ s'.errExp = t'.errExp ∧ s'.errAct = t'.errAct

/-- What LLDEC leaves unchanged: every register but the `LL_*` registers, `LLVALID`, `CURSOR`, `STATUS[2:0]` and the
error registers, and every byte of both buffers. For bytes of `OBUF` past `OLEN` that is the model's choice (log entry
9). -/
def Obligations.LldecFrame : Prop :=
  ∀ s t : State, exec .lldec s = .next t →
    t.cmd = s.cmd ∧ t.ovalid = s.ovalid ∧ t.kind = s.kind ∧ t.hint = s.hint ∧ t.ilen = s.ilen ∧ t.arg0 = s.arg0 ∧
    t.arg1 = s.arg1 ∧ t.olen = s.olen ∧ t.result = s.result ∧ t.script = s.script ∧ t.readData = s.readData ∧
    ∀ b j, bufByte t b j = bufByte s b j

/-! ### The de-framer -/

/-- Rule R112: the three tests that precede any parsing, in order. -/
def Obligations.StripPreconditions : Prop :=
  ∀ s : State,
    (s.ilen.toNat > 512 → exec .strip s = .next (failedStrip s .unexpectedState .badLen 0 512 s.ilen)) ∧
    (s.ilen.toNat ≤ 512 → s.hint = 3 → exec .strip s = .next (failedStrip s .unexpectedState .badHint 0 0 3)) ∧
    (s.ilen = 0 → s.hint ≠ 3 → exec .strip s = .next (failedStrip s .crcError .shortBuffer 0 1 0))

/-- Rule R113: the wired path, whatever the hint: its three tests in order and its output. -/
def Obligations.StripWiredFrame : Prop :=
  ∀ (s : State) (B : List Byte), B = inputFrame s → legalInput s → wiredMarkers B →
    (byteAt B 1 ≠ byteAt B 2 → exec .strip s = .next (failedStrip s .crcError .wiredLenCopies 0
      (BitVec.ofNat 16 (byteAt B 1)) (BitVec.ofNat 16 (byteAt B 2)))) ∧
    (byteAt B 1 = byteAt B 2 → byteAt B 1 + 6 ≠ B.length → exec .strip s = .next
      (failedStrip s .crcError .wiredLenCount 0 (BitVec.ofNat 16 (byteAt B 1 + 6)) s.ilen)) ∧
    (byteAt B 1 = byteAt B 2 → byteAt B 1 + 6 = B.length →
      (sum8 (range B 4 (B.length - 2))).toNat ≠ byteAt B (B.length - 2) → exec .strip s = .next
      (failedStrip s .crcError .wiredChecksum 0 ((sum8 (range B 4 (B.length - 2))).setWidth 16)
        (BitVec.ofNat 16 (byteAt B (B.length - 2))))) ∧
    (byteAt B 1 = byteAt B 2 → byteAt B 1 + 6 = B.length →
      (sum8 (range B 4 (B.length - 2))).toNat = byteAt B (B.length - 2) →
      exec .strip s = .next (committedStrip s .wired (range B 0 (B.length - 2))) ∧
        (range B 0 (B.length - 2)).length = byteAt B 1 + 4)

/-- Rule R114: a wireless buffer shorter than `L + 1` ends in `SHORT_BUFFER` under every hint. -/
def Obligations.StripShortWireless : Prop :=
  ∀ (s : State) (B : List Byte), B = inputFrame s → legalInput s → ¬wiredMarkers B → 1 ≤ B.length →
    B.length < byteAt B 0 + 1 → exec .strip s = .next
      (failedStrip s .crcError .shortBuffer 0 (BitVec.ofNat 16 (byteAt B 0 + 1)) s.ilen)

/-- Rule R120: hint FALSE commits a wireless frame of at least `L + 1` bytes whole and unchecked; under the STRICT
policy the hint FALSE behaves as TRUE. -/
def Obligations.StripHintFalse : Prop :=
  (∀ (s : State) (B : List Byte), B = inputFrame s → s.ilen.toNat ≤ 512 → s.hint = 2 → ¬wiredMarkers B →
    1 ≤ B.length → byteAt B 0 + 1 ≤ B.length → exec .strip s = .next (committedStrip s .wirelessNoCrc B)) ∧
    (∀ s : State, s.hint = 2 → s.ilen = 0 →
      exec .strip s = .next (failedStrip s .crcError .shortBuffer 0 1 0)) ∧
    (∀ (s : State) (B : List Byte), B = inputFrame s → s.ilen.toNat ≤ 512 → s.hint = 2 → ¬wiredMarkers B →
      B.length < byteAt B 0 + 1 → 1 ≤ B.length → exec .strip s = .next
        (failedStrip s .crcError .shortBuffer 0 (BitVec.ofNat 16 (byteAt B 0 + 1)) s.ilen)) ∧
    (∀ (s t : State) (B : List Byte), B = inputFrame s → wiredMarkers B → s.ilen.toNat ≤ 512 → s.hint = 2 →
      t = { s with hint := 1 } → ∀ s', exec .strip s = .next s' → exec .strip t = .next { s' with hint := 1 }) ∧
    ∀ (p : Params) (B : List Byte), p.hintFalsePolicy = .strict → deframe p .isFalse B = deframe p .isTrue B

/-- Rule R115: the Type B check of a wireless frame with `N = L + 1`, under hint UNKNOWN or TRUE where it passes and
under TRUE where it fails; block 1 before block 2, the first failure reported. -/
def Obligations.StripTypeB : Prop :=
  ∀ (s : State) (B : List Byte) (n1 : Nat), B = inputFrame s → legalInput s → ¬wiredMarkers B → 1 ≤ B.length →
    B.length = byteAt B 0 + 1 → n1 = min B.length 128 →
    (s.hint = 1 → n1 < 3 →
      exec .strip s = .next (failedStrip s .crcError .shortBlock 1 3 (BitVec.ofNat 16 n1))) ∧
    (s.hint = 1 → 3 ≤ n1 → crc16 cvs (range B 0 (n1 - 2)) ≠ storedCrc cvs B (n1 - 2) →
      exec .strip s = .next (failedStrip s .crcError .crcMismatch 1 (crc16 cvs (range B 0 (n1 - 2)))
        (storedCrc cvs B (n1 - 2)))) ∧
    (s.hint ≠ 2 → 3 ≤ n1 → crc16 cvs (range B 0 (n1 - 2)) = storedCrc cvs B (n1 - 2) → B.length ≤ 128 →
      exec .strip s = .next (committedStrip s .wirelessB (range B 0 (B.length - 2)))) ∧
    (s.hint = 1 → crc16 cvs (range B 0 126) = storedCrc cvs B 126 → 128 < B.length → B.length < 131 →
      exec .strip s = .next (failedStrip s .crcError .shortBlock 2 3 (BitVec.ofNat 16 (B.length - 128)))) ∧
    (s.hint = 1 → crc16 cvs (range B 0 126) = storedCrc cvs B 126 → 131 ≤ B.length →
      crc16 cvs (range B 128 (B.length - 2)) ≠ storedCrc cvs B (B.length - 2) →
      exec .strip s = .next (failedStrip s .crcError .crcMismatch 2 (crc16 cvs (range B 128 (B.length - 2)))
        (storedCrc cvs B (B.length - 2)))) ∧
    (s.hint ≠ 2 → crc16 cvs (range B 0 126) = storedCrc cvs B 126 → 131 ≤ B.length →
      crc16 cvs (range B 128 (B.length - 2)) = storedCrc cvs B (B.length - 2) →
      exec .strip s = .next (committedStrip s .wirelessB (range B 0 126 ++ range B 128 (B.length - 2))))

/-- Rule R116: the Type A check of a wireless frame with `N > L + 1`, under hint UNKNOWN or TRUE where it passes and
under TRUE where it fails; blocks in ascending order, the first failure reported. `a k` and `n k` are the offset and
the data length of block `k`. -/
def Obligations.StripTypeA : Prop :=
  ∀ (s : State) (B : List Byte) (l nb T : Nat) (a n : Nat → Nat), B = inputFrame s → legalInput s → ¬wiredMarkers B →
    1 ≤ B.length → l = byteAt B 0 → l + 1 < B.length → nb = (l - 9 + 15) / 16 → T = l + 3 + 2 * nb →
    (∀ k, a k = if k = 0 then 0 else 12 + 18 * (k - 1)) →
    (∀ k, n k = if k = 0 then 10 else min 16 (l - 9 - 16 * (k - 1))) →
    (s.hint = 1 → l < 9 →
      exec .strip s = .next (failedStrip s .crcError .lfieldTooSmall 0 9 (BitVec.ofNat 16 l))) ∧
    (s.hint = 1 → 9 ≤ l → B.length < T →
      exec .strip s = .next (failedStrip s .crcError .shortBuffer 0 (BitVec.ofNat 16 T) s.ilen)) ∧
    (∀ k, s.hint = 1 → 9 ≤ l → T ≤ B.length → k ≤ nb →
      (∀ j, j < k → crc16 cvs (range B (a j) (a j + n j)) = storedCrc cvs B (a j + n j)) →
      crc16 cvs (range B (a k) (a k + n k)) ≠ storedCrc cvs B (a k + n k) →
      exec .strip s = .next (failedStrip s .crcError .crcMismatch (BitVec.ofNat 8 k)
        (crc16 cvs (range B (a k) (a k + n k))) (storedCrc cvs B (a k + n k)))) ∧
    (s.hint ≠ 2 → 9 ≤ l → T ≤ B.length →
      (∀ j, j ≤ nb → crc16 cvs (range B (a j) (a j + n j)) = storedCrc cvs B (a j + n j)) →
      exec .strip s = .next (committedStrip s .wirelessA
        ((List.range (nb + 1)).flatMap fun k => range B (a k) (a k + n k))) ∧
      ((List.range (nb + 1)).flatMap fun k => range B (a k) (a k + n k)).length = l + 1)

/-- Rule R119: under hint UNKNOWN a failed check of either type, for any cause, commits the whole input without error. -/
def Obligations.StripFallback : Prop :=
  ∀ (s : State) (B : List Byte) (f : Failure), B = inputFrame s → s.ilen.toNat ≤ 512 → s.hint = 0 → ¬wiredMarkers B →
    1 ≤ B.length →
    (B.length = byteAt B 0 + 1 ∧ checkTypeB cvs B = .fail f ∨ byteAt B 0 + 1 < B.length ∧ checkTypeA cvs B = .fail f) →
    exec .strip s = .next (committedStrip s .wirelessNoCrc B)

/-- Rule R121: under hint TRUE a failed check is `CRC_ERROR` with the values the check returned; `N = L + 1` is checked
as Type B and `N > L + 1` as Type A. -/
def Obligations.StripHintTrueIsFatal : Prop :=
  ∀ (s : State) (B : List Byte), B = inputFrame s → s.ilen.toNat ≤ 512 → s.hint = 1 → ¬wiredMarkers B →
    1 ≤ B.length →
    (∀ f, B.length = byteAt B 0 + 1 → checkTypeB cvs B = .fail f → exec .strip s = .next
      (failedStrip s .crcError f.cause (BitVec.ofNat 8 f.block) (BitVec.ofNat 16 f.exp) (BitVec.ofNat 16 f.act))) ∧
    (∀ f, byteAt B 0 + 1 < B.length → checkTypeA cvs B = .fail f → exec .strip s = .next
      (failedStrip s .crcError f.cause (BitVec.ofNat 8 f.block) (BitVec.ofNat 16 f.exp) (BitVec.ofNat 16 f.act))) ∧
    (∀ out, B.length = byteAt B 0 + 1 → checkTypeB cvs B = .ok out →
      exec .strip s = .next (committedStrip s .wirelessB out)) ∧
    ∀ out, byteAt B 0 + 1 < B.length → checkTypeA cvs B = .ok out →
      exec .strip s = .next (committedStrip s .wirelessA out)

/-- Rule R118: every byte of the stripped buffer is a byte of the input; the first is the input's first, so the L-field
is not rewritten and LLDEC reports it as received. -/
def Obligations.StripCopiesInputBytes : Prop :=
  ∀ s t : State, exec .strip s = .next t → t.ovalid = true →
    (∀ i, i < t.olen.toNat → ∃ j, j < s.ilen.toNat ∧ bufByte t .obuf i = bufByte s .ibuf j) ∧
    1 ≤ t.olen.toNat ∧ bufByte t .obuf 0 = bufByte s .ibuf 0 ∧
    (t.kind = .wirelessA → t.olen.toNat = (bufByte s .ibuf 0).toNat + 1) ∧
    (t.kind = .wirelessB → (t.olen.toNat + 1 = (bufByte s .ibuf 0).toNat ∨
      t.olen.toNat + 3 = (bufByte s .ibuf 0).toNat) ∧
      ∀ u, exec .lldec t = .next u → u.llvalid = true → u.ll.length = bufByte s .ibuf 0)

/-- Rule R117: what `commit` leaves: `OBUF[0:OLEN)`, `OLEN` and `OVALID` by kind. -/
def Obligations.StripOutputByKind : Prop :=
  ∀ s t : State, exec .strip s = .next t → t.ovalid = true →
    t.cursor = 0 ∧ t.busy = false ∧ t.done = true ∧ t.err = s.err ∧ t.olen.toNat ≤ s.ilen.toNat ∧
    s.ilen.toNat ≤ 512 ∧ t.kind ≠ .none ∧
    (t.kind = .wired → t.olen.toNat + 2 = s.ilen.toNat ∧
      ∀ i, i < t.olen.toNat → bufByte t .obuf i = bufByte s .ibuf i) ∧
    (t.kind = .wirelessA → t.olen.toNat = (bufByte s .ibuf 0).toNat + 1 ∧
      ∀ i, i < t.olen.toNat → bufByte t .obuf i =
        bufByte s .ibuf (if i < 10 then i else i + 2 + 2 * ((i - 10) / 16))) ∧
    (t.kind = .wirelessB → t.olen.toNat + (if s.ilen.toNat ≤ 128 then 2 else 4) = s.ilen.toNat ∧
      ∀ i, i < t.olen.toNat → bufByte t .obuf i = bufByte s .ibuf (if i < 126 then i else i + 2)) ∧
    (t.kind = .wirelessNoCrc → t.olen = s.ilen ∧ ∀ i, i < t.olen.toNat → bufByte t .obuf i = bufByte s .ibuf i)

/-- Rule R124: the state after a STRIP that ends in error; the unspecified bytes are a free value (log entry 2). -/
def Obligations.FailedStripLeavesNoFrame : Prop :=
  ∀ s t : State, started s → exec .strip s = .next t → (t.err = true ↔ t.ovalid = false) ∧
    (t.err = true → t.kind = .none ∧ t.olen = 0 ∧ t.cursor = 0 ∧ t.llvalid = false ∧ t.ll = LinkLayer.zero ∧
      t.errKind ≠ .none ∧ ∀ i, bufByte t .obuf i = Config.unspecifiedByte .obuf (s.obufGen + 1) i)

/-- What STRIP leaves unchanged (rule R110: "never written"), and that past `OLEN` the output buffer is unspecified
anew (rule R27, a free value, log entry 2). -/
def Obligations.StripFrame : Prop :=
  ∀ s t : State, exec .strip s = .next t →
    t.cmd = s.cmd ∧ t.hint = s.hint ∧ t.ilen = s.ilen ∧ t.arg0 = s.arg0 ∧ t.arg1 = s.arg1 ∧ t.result = s.result ∧
    t.script = s.script ∧ t.readData = s.readData ∧ (∀ j, bufByte t .ibuf j = bufByte s .ibuf j) ∧
    ∀ j, t.olen.toNat ≤ j → bufByte t .obuf j = Config.unspecifiedByte .obuf (s.obufGen + 1) j

/-- Rule R126: STRIP is a function of `IBUF[0:ILEN)`, `ILEN` and `HINT`, and always ends. -/
def Obligations.StripDependsOnItsInputsOnly : Prop :=
  ∀ s t : State, started s → started t → s.ilen = t.ilen → s.hint = t.hint →
    (∀ i, i < s.ilen.toNat → bufByte s .ibuf i = bufByte t .ibuf i) →
    ∃ s' t', exec .strip s = .next s' ∧ exec .strip t = .next t' ∧ s'.olen = t'.olen ∧ s'.kind = t'.kind ∧
      s'.ovalid = t'.ovalid ∧ s'.err = t'.err ∧ s'.errKind = t'.errKind ∧ s'.errCause = t'.errCause ∧
      s'.errBlock = t'.errBlock ∧ s'.errExp = t'.errExp ∧ s'.errAct = t'.errAct ∧
      ∀ i, i < s'.olen.toNat → bufByte s' .obuf i = bufByte t' .obuf i

/-- A Type A frame built by rule R67, trailing data after it or not, is stripped to its data (rules R116 and R123). -/
def Obligations.TypeAFrameStripsToItsData : Prop :=
  ∀ (s : State) (header payload trailing : List Byte), header.length = 10 → payload.length ≤ 246 →
    byteAt header 0 = payload.length + 9 → inputFrame s = frameA header payload ++ trailing →
    s.ilen.toNat ≤ 512 → (s.hint = 0 ∨ s.hint = 1) → ¬wiredMarkers (inputFrame s) →
    ∃ t, exec .strip s = .next t ∧ t.ovalid = true ∧ t.kind = .wirelessA ∧ t.err = s.err ∧
      t.olen.toNat = payload.length + 10 ∧ bufRange t .obuf 0 t.olen.toNat = header ++ payload

/-- A Type B frame built by rule R68, of one block or of two, is stripped to its data (rule R115). -/
def Obligations.TypeBFrameStripsToItsData : Prop :=
  ∀ (s : State) (block1 block2 : List Byte), block1 ≠ [] → block1.length ≤ 126 → block2.length ≤ 126 →
    (block2 ≠ [] → block1.length = 126) → byteAt block1 0 + 1 = (frameB block1 block2).length →
    inputFrame s = frameB block1 block2 → (s.hint = 0 ∨ s.hint = 1) → ¬wiredMarkers (inputFrame s) →
    ∃ t, exec .strip s = .next t ∧ t.ovalid = true ∧ t.kind = .wirelessB ∧ t.err = s.err ∧
      t.olen.toNat = block1.length + block2.length ∧ bufRange t .obuf 0 t.olen.toNat = block1 ++ block2

/-- A wired frame built by rule R65 is stripped of its checksum and stop marker, whatever the hint (rule R113). -/
def Obligations.WiredFrameStripsToItsData : Prop :=
  ∀ (s : State) (user : List Byte), user.length ≤ 255 → inputFrame s = frameWired user → s.hint ≠ 3 →
    ∃ t, exec .strip s = .next t ∧ t.ovalid = true ∧ t.kind = .wired ∧ t.err = s.err ∧
      t.olen.toNat = user.length + 4 ∧ bufRange t .obuf 0 t.olen.toNat =
        [0x68, BitVec.ofNat 8 user.length, BitVec.ofNat 8 user.length, 0x68] ++ user

/-! ### Whole-machine rules -/

/-- Rule R122: `OBUF`, `OLEN`, `KIND` and `OVALID` change only when a STRIP runs or at reset; STRIP never writes `IBUF`.
For bytes of `OBUF` past `OLEN` that is the model's choice (log entry 9). -/
def Obligations.OutputChangesOnlyByStripOrReset : Prop :=
  (∀ s t : State, step s = .next t → (∀ rest, s.script ≠ .reset :: rest) →
    ¬(s.busy = true ∧ decode s.cmd = .ok .strip ∧ (s.script = [] ∨ ∃ rest, s.script = .block :: rest)) →
    t.olen = s.olen ∧ t.kind = s.kind ∧ t.ovalid = s.ovalid ∧ ∀ i, bufByte t .obuf i = bufByte s .obuf i) ∧
    ∀ s t : State, exec .strip s = .next t → ∀ i, bufByte t .ibuf i = bufByte s .ibuf i

/-- Rule R26: `IBUF` changes only by a host write of one of its bytes while the block is idle, or at reset. -/
def Obligations.InputBufferChangesOnlyByHostOrReset : Prop :=
  ∀ s t : State, step s = .next t → (∀ rest, s.script ≠ .reset :: rest) → ∀ i,
    bufByte t .ibuf i = bufByte s .ibuf i ∨
      s.busy = false ∧ ∃ v rest, s.script = .host (.writeBuf .ibuf i v) :: rest ∧ bufByte t .ibuf i = v

/-- Rule R165: `ERR`, `DONE` and the error registers of an idle block stay until the next accepted `CMD` write, which
clears them and starts the operation its byte encodes, or reset; an error does not lock the block. -/
def Obligations.ErrorsStayUntilNextCommandOrReset : Prop :=
  (∀ s t : State, s.busy = false → step s = .next t → (∀ rest, s.script ≠ .reset :: rest) →
    (∀ v rest, s.script ≠ .host (.writeReg 0 4 v) :: rest) →
    t.err = s.err ∧ t.done = s.done ∧ t.errKind = s.errKind ∧ t.errCause = s.errCause ∧ t.errBlock = s.errBlock ∧
      t.errExp = s.errExp ∧ t.errAct = s.errAct) ∧
    (∀ (s : State) (v : Word) (i : Instr) (rest : List Input), s.busy = false → decode (v.setWidth 8) = .ok i →
      s.script = .host (.writeReg 0 4 v) :: rest → ∃ t, step s = .next t ∧ started t ∧ t.cmd = encode i) ∧
    ∀ (s : State) (rest : List Input), s.script = .reset :: rest →
      ∃ t, step s = .next t ∧ t.err = false ∧ t.done = false ∧ t.errKind = .none ∧ t.errCause = .none ∧
        t.errBlock = 0 ∧ t.errExp = 0 ∧ t.errAct = 0

/-- Rule R17: how each operation and the host change `CURSOR`, and its bound after a successful LLDEC. -/
def Obligations.CursorMovesAsTheRuleSays : Prop :=
  State.reset.cursor = 0 ∧
    (∀ s t : State, exec .strip s = .next t → t.cursor = 0) ∧
    (∀ s t : State, s.err = false → exec .lldec s = .next t →
      (t.err = true → t.cursor = s.cursor) ∧
      (t.err = false → t.cursor.toNat = s.cursor.toNat + (if s.kind = .wired then 6 else 10) ∧
        t.cursor.toNat ≤ t.olen.toNat ∧ (s.BufferInv → t.cursor.toNat ≤ 512))) ∧
    (∀ (b : Buffer) (s t : State), exec (.crc16 b) s = .next t → t.cursor = s.cursor) ∧
    (∀ s t : State, exec .mfr s = .next t → t.cursor = s.cursor) ∧
    ∀ (s : State) (v : Word) (rest : List Input), s.busy = false → s.script = .host (.writeReg 24 4 v) :: rest →
      step s = .next { s with cursor := v.setWidth 16, script := rest }

/-- Rule R18: the bits of `STATUS` and the numbers of `KIND`. -/
def Obligations.StatusByteLayout : Prop :=
  ∀ s : State, (statusByte s).toNat = s.busy.toNat + 2 * s.done.toNat + 4 * s.err.toNat + 8 * s.ovalid.toNat +
      16 * s.llvalid.toNat + 32 * (kindCode s.kind).toNat ∧
    ((statusByte s).extractLsb' 5 3 = 0 ↔ s.kind = .none) ∧ ((statusByte s).extractLsb' 5 3 = 1 ↔ s.kind = .wired) ∧
    ((statusByte s).extractLsb' 5 3 = 2 ↔ s.kind = .wirelessA) ∧
    ((statusByte s).extractLsb' 5 3 = 3 ↔ s.kind = .wirelessB) ∧
    ((statusByte s).extractLsb' 5 3 = 4 ↔ s.kind = .wirelessNoCrc)

/-- The status invariant holds at reset. -/
def Obligations.ResetHasStatusInv : Prop := State.reset.StatusInv

/-- Every step keeps the status invariant (rules R12, R18, R23, R25, R75, R161), from every state that meets it. -/
def Obligations.StepKeepsStatusInv : Prop := ∀ s t : State, s.StatusInv → step s = .next t → t.StatusInv

/-- The buffers' form holds at reset. -/
def Obligations.ResetHasBufferInv : Prop := State.reset.BufferInv

/-- Every step keeps the buffers' canonical form, capacity and the written output (rules R26, R27, R51), from every
state that meets it. -/
def Obligations.StepKeepsBufferInv : Prop := ∀ s t : State, s.BufferInv → step s = .next t → t.BufferInv

/-! ### The error registers' numbers -/

/-- Rules R22, R160 and R161: the number an idle host reads in `ERRKIND` for each kind and in `ERRCAUSE` for each cause,
and the kind of each cause. `readData` is the model's own field (log entry 4). -/
def Obligations.ErrorRegistersReadTheirCodes : Prop :=
  (∀ (s : State) (rest : List Input), s.busy = false → s.script = .host (.readReg 36 4) :: rest →
    ∀ p ∈ ([(.none, 0), (.crcError, 1), (.noAesKey, 2), (.wrongAesKey, 3), (.decryptionError, 4),
        (.unexpectedState, 5), (.unimplementedFeature, 6), (.dataRecordCacheMissing, 7)] : List (ErrKind × Word)),
      s.errKind = p.1 → step s = .next { s with readData := p.2, script := rest }) ∧
    (∀ (s : State) (rest : List Input), s.busy = false → s.script = .host (.readReg 40 4) :: rest →
      ∀ p ∈ ([(.none, 0), (.shortBuffer, 1), (.wiredLenCopies, 2), (.wiredLenCount, 3), (.wiredChecksum, 4),
          (.crcMismatch, 5), (.shortBlock, 6), (.lfieldTooSmall, 7), (.badCmd, 8), (.badHint, 9), (.badLen, 10),
          (.badRange, 11), (.noFrame, 12)] : List (Cause × Word)),
        s.errCause = p.1 → step s = .next { s with readData := p.2, script := rest }) ∧
    (∀ c : Cause, c ∈ ([.shortBuffer, .wiredLenCopies, .wiredLenCount, .wiredChecksum, .crcMismatch, .shortBlock,
        .lfieldTooSmall] : List Cause) ↔ causeKind c = .crcError) ∧
    (∀ c : Cause, c ∈ ([.badCmd, .badHint, .badLen, .badRange, .noFrame] : List Cause) ↔
      causeKind c = .unexpectedState) ∧ causeKind .none = .none
end

