-- ==== Sys2Proof/Laws/State.lean ====
section
/-! SUPPORT. One lemma per field per shared update of the state, so that no later proof unfolds a record update. -/

namespace Sys2Proof.Machine

/-! ### `acceptCmd` -/

@[simp] theorem acceptCmd_cmd (b : Byte) (s : State) : (acceptCmd b s).cmd = b := rfl
@[simp] theorem acceptCmd_busy (b : Byte) (s : State) : (acceptCmd b s).busy = true := rfl
@[simp] theorem acceptCmd_done (b : Byte) (s : State) : (acceptCmd b s).done = false := rfl
@[simp] theorem acceptCmd_err (b : Byte) (s : State) : (acceptCmd b s).err = false := rfl
@[simp] theorem acceptCmd_ovalid (b : Byte) (s : State) : (acceptCmd b s).ovalid = s.ovalid := rfl
@[simp] theorem acceptCmd_llvalid (b : Byte) (s : State) : (acceptCmd b s).llvalid = s.llvalid := rfl
@[simp] theorem acceptCmd_kind (b : Byte) (s : State) : (acceptCmd b s).kind = s.kind := rfl
@[simp] theorem acceptCmd_hint (b : Byte) (s : State) : (acceptCmd b s).hint = s.hint := rfl
@[simp] theorem acceptCmd_ilen (b : Byte) (s : State) : (acceptCmd b s).ilen = s.ilen := rfl
@[simp] theorem acceptCmd_arg0 (b : Byte) (s : State) : (acceptCmd b s).arg0 = s.arg0 := rfl
@[simp] theorem acceptCmd_arg1 (b : Byte) (s : State) : (acceptCmd b s).arg1 = s.arg1 := rfl
@[simp] theorem acceptCmd_cursor (b : Byte) (s : State) : (acceptCmd b s).cursor = s.cursor := rfl
@[simp] theorem acceptCmd_olen (b : Byte) (s : State) : (acceptCmd b s).olen = s.olen := rfl
@[simp] theorem acceptCmd_result (b : Byte) (s : State) : (acceptCmd b s).result = s.result := rfl
@[simp] theorem acceptCmd_errKind (b : Byte) (s : State) : (acceptCmd b s).errKind = .none := rfl
@[simp] theorem acceptCmd_errCause (b : Byte) (s : State) : (acceptCmd b s).errCause = .none := rfl
@[simp] theorem acceptCmd_errBlock (b : Byte) (s : State) : (acceptCmd b s).errBlock = 0 := rfl
@[simp] theorem acceptCmd_errExp (b : Byte) (s : State) : (acceptCmd b s).errExp = 0 := rfl
@[simp] theorem acceptCmd_errAct (b : Byte) (s : State) : (acceptCmd b s).errAct = 0 := rfl
@[simp] theorem acceptCmd_ll (b : Byte) (s : State) : (acceptCmd b s).ll = s.ll := rfl
@[simp] theorem acceptCmd_ibuf (b : Byte) (s : State) : (acceptCmd b s).ibuf = s.ibuf := rfl
@[simp] theorem acceptCmd_obuf (b : Byte) (s : State) : (acceptCmd b s).obuf = s.obuf := rfl
@[simp] theorem acceptCmd_ibufGen (b : Byte) (s : State) : (acceptCmd b s).ibufGen = s.ibufGen := rfl
@[simp] theorem acceptCmd_obufGen (b : Byte) (s : State) : (acceptCmd b s).obufGen = s.obufGen := rfl
@[simp] theorem acceptCmd_busyReads (b : Byte) (s : State) : (acceptCmd b s).busyReads = s.busyReads := rfl
@[simp] theorem acceptCmd_readData (b : Byte) (s : State) : (acceptCmd b s).readData = s.readData := rfl
@[simp] theorem acceptCmd_script (b : Byte) (s : State) : (acceptCmd b s).script = s.script := rfl

/-! ### `writeCmd` -/

@[simp] theorem writeCmd_cmd (b : Byte) (s : State) : (writeCmd b s).cmd = b := by unfold writeCmd; split <;> rfl
@[simp] theorem writeCmd_ovalid (b : Byte) (s : State) : (writeCmd b s).ovalid = s.ovalid := by
  unfold writeCmd; split <;> rfl
@[simp] theorem writeCmd_llvalid (b : Byte) (s : State) : (writeCmd b s).llvalid = s.llvalid := by
  unfold writeCmd; split <;> rfl
@[simp] theorem writeCmd_kind (b : Byte) (s : State) : (writeCmd b s).kind = s.kind := by
  unfold writeCmd; split <;> rfl
@[simp] theorem writeCmd_hint (b : Byte) (s : State) : (writeCmd b s).hint = s.hint := by
  unfold writeCmd; split <;> rfl
@[simp] theorem writeCmd_ilen (b : Byte) (s : State) : (writeCmd b s).ilen = s.ilen := by
  unfold writeCmd; split <;> rfl
@[simp] theorem writeCmd_arg0 (b : Byte) (s : State) : (writeCmd b s).arg0 = s.arg0 := by
  unfold writeCmd; split <;> rfl
@[simp] theorem writeCmd_arg1 (b : Byte) (s : State) : (writeCmd b s).arg1 = s.arg1 := by
  unfold writeCmd; split <;> rfl
@[simp] theorem writeCmd_cursor (b : Byte) (s : State) : (writeCmd b s).cursor = s.cursor := by
  unfold writeCmd; split <;> rfl
@[simp] theorem writeCmd_olen (b : Byte) (s : State) : (writeCmd b s).olen = s.olen := by
  unfold writeCmd; split <;> rfl
@[simp] theorem writeCmd_result (b : Byte) (s : State) : (writeCmd b s).result = s.result := by
  unfold writeCmd; split <;> rfl
@[simp] theorem writeCmd_ll (b : Byte) (s : State) : (writeCmd b s).ll = s.ll := by
  unfold writeCmd; split <;> rfl
@[simp] theorem writeCmd_ibuf (b : Byte) (s : State) : (writeCmd b s).ibuf = s.ibuf := by
  unfold writeCmd; split <;> rfl
@[simp] theorem writeCmd_obuf (b : Byte) (s : State) : (writeCmd b s).obuf = s.obuf := by
  unfold writeCmd; split <;> rfl
@[simp] theorem writeCmd_ibufGen (b : Byte) (s : State) : (writeCmd b s).ibufGen = s.ibufGen := by
  unfold writeCmd; split <;> rfl
@[simp] theorem writeCmd_obufGen (b : Byte) (s : State) : (writeCmd b s).obufGen = s.obufGen := by
  unfold writeCmd; split <;> rfl
@[simp] theorem writeCmd_busyReads (b : Byte) (s : State) : (writeCmd b s).busyReads = s.busyReads := by
  unfold writeCmd; split <;> rfl
@[simp] theorem writeCmd_readData (b : Byte) (s : State) : (writeCmd b s).readData = s.readData := by
  unfold writeCmd; split <;> rfl
@[simp] theorem writeCmd_script (b : Byte) (s : State) : (writeCmd b s).script = s.script := by
  unfold writeCmd; split <;> rfl

/-! ### `finish` -/

@[simp] theorem finish_cmd (s : State) : (finish s).cmd = s.cmd := rfl
@[simp] theorem finish_busy (s : State) : (finish s).busy = false := rfl
@[simp] theorem finish_done (s : State) : (finish s).done = true := rfl
@[simp] theorem finish_err (s : State) : (finish s).err = s.err := rfl
@[simp] theorem finish_ovalid (s : State) : (finish s).ovalid = s.ovalid := rfl
@[simp] theorem finish_llvalid (s : State) : (finish s).llvalid = s.llvalid := rfl
@[simp] theorem finish_kind (s : State) : (finish s).kind = s.kind := rfl
@[simp] theorem finish_hint (s : State) : (finish s).hint = s.hint := rfl
@[simp] theorem finish_ilen (s : State) : (finish s).ilen = s.ilen := rfl
@[simp] theorem finish_arg0 (s : State) : (finish s).arg0 = s.arg0 := rfl
@[simp] theorem finish_arg1 (s : State) : (finish s).arg1 = s.arg1 := rfl
@[simp] theorem finish_cursor (s : State) : (finish s).cursor = s.cursor := rfl
@[simp] theorem finish_olen (s : State) : (finish s).olen = s.olen := rfl
@[simp] theorem finish_result (s : State) : (finish s).result = s.result := rfl
@[simp] theorem finish_errKind (s : State) : (finish s).errKind = s.errKind := rfl
@[simp] theorem finish_errCause (s : State) : (finish s).errCause = s.errCause := rfl
@[simp] theorem finish_errBlock (s : State) : (finish s).errBlock = s.errBlock := rfl
@[simp] theorem finish_errExp (s : State) : (finish s).errExp = s.errExp := rfl
@[simp] theorem finish_errAct (s : State) : (finish s).errAct = s.errAct := rfl
@[simp] theorem finish_ll (s : State) : (finish s).ll = s.ll := rfl
@[simp] theorem finish_ibuf (s : State) : (finish s).ibuf = s.ibuf := rfl
@[simp] theorem finish_obuf (s : State) : (finish s).obuf = s.obuf := rfl
@[simp] theorem finish_ibufGen (s : State) : (finish s).ibufGen = s.ibufGen := rfl
@[simp] theorem finish_obufGen (s : State) : (finish s).obufGen = s.obufGen := rfl
@[simp] theorem finish_busyReads (s : State) : (finish s).busyReads = s.busyReads := rfl
@[simp] theorem finish_readData (s : State) : (finish s).readData = s.readData := rfl
@[simp] theorem finish_script (s : State) : (finish s).script = s.script := rfl

/-! ### `raiseError` -/

@[simp] theorem raiseError_cmd (k : ErrKind) (f : Failure) (s : State) : (raiseError k f s).cmd = s.cmd := rfl
@[simp] theorem raiseError_busy (k : ErrKind) (f : Failure) (s : State) : (raiseError k f s).busy = false := rfl
@[simp] theorem raiseError_done (k : ErrKind) (f : Failure) (s : State) : (raiseError k f s).done = true := rfl
@[simp] theorem raiseError_err (k : ErrKind) (f : Failure) (s : State) : (raiseError k f s).err = true := rfl
@[simp] theorem raiseError_ovalid (k : ErrKind) (f : Failure) (s : State) : (raiseError k f s).ovalid = s.ovalid := rfl
@[simp] theorem raiseError_llvalid (k : ErrKind) (f : Failure) (s : State) : (raiseError k f s).llvalid = s.llvalid := rfl
@[simp] theorem raiseError_kind (k : ErrKind) (f : Failure) (s : State) : (raiseError k f s).kind = s.kind := rfl
@[simp] theorem raiseError_hint (k : ErrKind) (f : Failure) (s : State) : (raiseError k f s).hint = s.hint := rfl
@[simp] theorem raiseError_ilen (k : ErrKind) (f : Failure) (s : State) : (raiseError k f s).ilen = s.ilen := rfl
@[simp] theorem raiseError_arg0 (k : ErrKind) (f : Failure) (s : State) : (raiseError k f s).arg0 = s.arg0 := rfl
@[simp] theorem raiseError_arg1 (k : ErrKind) (f : Failure) (s : State) : (raiseError k f s).arg1 = s.arg1 := rfl
@[simp] theorem raiseError_cursor (k : ErrKind) (f : Failure) (s : State) : (raiseError k f s).cursor = s.cursor := rfl
@[simp] theorem raiseError_olen (k : ErrKind) (f : Failure) (s : State) : (raiseError k f s).olen = s.olen := rfl
@[simp] theorem raiseError_result (k : ErrKind) (f : Failure) (s : State) : (raiseError k f s).result = s.result := rfl
@[simp] theorem raiseError_errKind (k : ErrKind) (f : Failure) (s : State) : (raiseError k f s).errKind = k := rfl
@[simp] theorem raiseError_errCause (k : ErrKind) (f : Failure) (s : State) : (raiseError k f s).errCause = f.cause := rfl
@[simp] theorem raiseError_errBlock (k : ErrKind) (f : Failure) (s : State) : (raiseError k f s).errBlock = BitVec.ofNat 8 f.block := rfl
@[simp] theorem raiseError_errExp (k : ErrKind) (f : Failure) (s : State) : (raiseError k f s).errExp = BitVec.ofNat 16 f.exp := rfl
@[simp] theorem raiseError_errAct (k : ErrKind) (f : Failure) (s : State) : (raiseError k f s).errAct = BitVec.ofNat 16 f.act := rfl
@[simp] theorem raiseError_ll (k : ErrKind) (f : Failure) (s : State) : (raiseError k f s).ll = s.ll := rfl
@[simp] theorem raiseError_ibuf (k : ErrKind) (f : Failure) (s : State) : (raiseError k f s).ibuf = s.ibuf := rfl
@[simp] theorem raiseError_obuf (k : ErrKind) (f : Failure) (s : State) : (raiseError k f s).obuf = s.obuf := rfl
@[simp] theorem raiseError_ibufGen (k : ErrKind) (f : Failure) (s : State) : (raiseError k f s).ibufGen = s.ibufGen := rfl
@[simp] theorem raiseError_obufGen (k : ErrKind) (f : Failure) (s : State) : (raiseError k f s).obufGen = s.obufGen := rfl
@[simp] theorem raiseError_busyReads (k : ErrKind) (f : Failure) (s : State) : (raiseError k f s).busyReads = s.busyReads := rfl
@[simp] theorem raiseError_readData (k : ErrKind) (f : Failure) (s : State) : (raiseError k f s).readData = s.readData := rfl
@[simp] theorem raiseError_script (k : ErrKind) (f : Failure) (s : State) : (raiseError k f s).script = s.script := rfl

/-! ### `stripStart` -/

@[simp] theorem stripStart_cmd (s : State) : (stripStart s).cmd = s.cmd := rfl
@[simp] theorem stripStart_busy (s : State) : (stripStart s).busy = s.busy := rfl
@[simp] theorem stripStart_done (s : State) : (stripStart s).done = s.done := rfl
@[simp] theorem stripStart_err (s : State) : (stripStart s).err = s.err := rfl
@[simp] theorem stripStart_ovalid (s : State) : (stripStart s).ovalid = false := rfl
@[simp] theorem stripStart_llvalid (s : State) : (stripStart s).llvalid = false := rfl
@[simp] theorem stripStart_kind (s : State) : (stripStart s).kind = .none := rfl
@[simp] theorem stripStart_hint (s : State) : (stripStart s).hint = s.hint := rfl
@[simp] theorem stripStart_ilen (s : State) : (stripStart s).ilen = s.ilen := rfl
@[simp] theorem stripStart_arg0 (s : State) : (stripStart s).arg0 = s.arg0 := rfl
@[simp] theorem stripStart_arg1 (s : State) : (stripStart s).arg1 = s.arg1 := rfl
@[simp] theorem stripStart_cursor (s : State) : (stripStart s).cursor = 0 := rfl
@[simp] theorem stripStart_olen (s : State) : (stripStart s).olen = 0 := rfl
@[simp] theorem stripStart_result (s : State) : (stripStart s).result = s.result := rfl
@[simp] theorem stripStart_errKind (s : State) : (stripStart s).errKind = s.errKind := rfl
@[simp] theorem stripStart_errCause (s : State) : (stripStart s).errCause = s.errCause := rfl
@[simp] theorem stripStart_errBlock (s : State) : (stripStart s).errBlock = s.errBlock := rfl
@[simp] theorem stripStart_errExp (s : State) : (stripStart s).errExp = s.errExp := rfl
@[simp] theorem stripStart_errAct (s : State) : (stripStart s).errAct = s.errAct := rfl
@[simp] theorem stripStart_ll (s : State) : (stripStart s).ll = LinkLayer.zero := rfl
@[simp] theorem stripStart_ibuf (s : State) : (stripStart s).ibuf = s.ibuf := rfl
@[simp] theorem stripStart_obuf (s : State) : (stripStart s).obuf = [] := rfl
@[simp] theorem stripStart_ibufGen (s : State) : (stripStart s).ibufGen = s.ibufGen := rfl
@[simp] theorem stripStart_obufGen (s : State) : (stripStart s).obufGen = s.obufGen + 1 := rfl
@[simp] theorem stripStart_busyReads (s : State) : (stripStart s).busyReads = s.busyReads := rfl
@[simp] theorem stripStart_readData (s : State) : (stripStart s).readData = s.readData := rfl
@[simp] theorem stripStart_script (s : State) : (stripStart s).script = s.script := rfl

/-! ### `lldecStart` -/

@[simp] theorem lldecStart_cmd (s : State) : (lldecStart s).cmd = s.cmd := rfl
@[simp] theorem lldecStart_busy (s : State) : (lldecStart s).busy = s.busy := rfl
@[simp] theorem lldecStart_done (s : State) : (lldecStart s).done = s.done := rfl
@[simp] theorem lldecStart_err (s : State) : (lldecStart s).err = s.err := rfl
@[simp] theorem lldecStart_ovalid (s : State) : (lldecStart s).ovalid = s.ovalid := rfl
@[simp] theorem lldecStart_llvalid (s : State) : (lldecStart s).llvalid = false := rfl
@[simp] theorem lldecStart_kind (s : State) : (lldecStart s).kind = s.kind := rfl
@[simp] theorem lldecStart_hint (s : State) : (lldecStart s).hint = s.hint := rfl
@[simp] theorem lldecStart_ilen (s : State) : (lldecStart s).ilen = s.ilen := rfl
@[simp] theorem lldecStart_arg0 (s : State) : (lldecStart s).arg0 = s.arg0 := rfl
@[simp] theorem lldecStart_arg1 (s : State) : (lldecStart s).arg1 = s.arg1 := rfl
@[simp] theorem lldecStart_cursor (s : State) : (lldecStart s).cursor = s.cursor := rfl
@[simp] theorem lldecStart_olen (s : State) : (lldecStart s).olen = s.olen := rfl
@[simp] theorem lldecStart_result (s : State) : (lldecStart s).result = s.result := rfl
@[simp] theorem lldecStart_errKind (s : State) : (lldecStart s).errKind = s.errKind := rfl
@[simp] theorem lldecStart_errCause (s : State) : (lldecStart s).errCause = s.errCause := rfl
@[simp] theorem lldecStart_errBlock (s : State) : (lldecStart s).errBlock = s.errBlock := rfl
@[simp] theorem lldecStart_errExp (s : State) : (lldecStart s).errExp = s.errExp := rfl
@[simp] theorem lldecStart_errAct (s : State) : (lldecStart s).errAct = s.errAct := rfl
@[simp] theorem lldecStart_ll (s : State) : (lldecStart s).ll = LinkLayer.zero := rfl
@[simp] theorem lldecStart_ibuf (s : State) : (lldecStart s).ibuf = s.ibuf := rfl
@[simp] theorem lldecStart_obuf (s : State) : (lldecStart s).obuf = s.obuf := rfl
@[simp] theorem lldecStart_ibufGen (s : State) : (lldecStart s).ibufGen = s.ibufGen := rfl
@[simp] theorem lldecStart_obufGen (s : State) : (lldecStart s).obufGen = s.obufGen := rfl
@[simp] theorem lldecStart_busyReads (s : State) : (lldecStart s).busyReads = s.busyReads := rfl
@[simp] theorem lldecStart_readData (s : State) : (lldecStart s).readData = s.readData := rfl
@[simp] theorem lldecStart_script (s : State) : (lldecStart s).script = s.script := rfl

/-! ### `commit` -/

@[simp] theorem commit_cmd (out : List Byte) (k : Kind) (s : State) : (commit out k s).cmd = s.cmd := rfl
@[simp] theorem commit_busy (out : List Byte) (k : Kind) (s : State) : (commit out k s).busy = false := rfl
@[simp] theorem commit_done (out : List Byte) (k : Kind) (s : State) : (commit out k s).done = true := rfl
@[simp] theorem commit_err (out : List Byte) (k : Kind) (s : State) : (commit out k s).err = s.err := rfl
@[simp] theorem commit_ovalid (out : List Byte) (k : Kind) (s : State) : (commit out k s).ovalid = true := rfl
@[simp] theorem commit_llvalid (out : List Byte) (k : Kind) (s : State) : (commit out k s).llvalid = s.llvalid := rfl
@[simp] theorem commit_kind (out : List Byte) (k : Kind) (s : State) : (commit out k s).kind = k := rfl
@[simp] theorem commit_hint (out : List Byte) (k : Kind) (s : State) : (commit out k s).hint = s.hint := rfl
@[simp] theorem commit_ilen (out : List Byte) (k : Kind) (s : State) : (commit out k s).ilen = s.ilen := rfl
@[simp] theorem commit_arg0 (out : List Byte) (k : Kind) (s : State) : (commit out k s).arg0 = s.arg0 := rfl
@[simp] theorem commit_arg1 (out : List Byte) (k : Kind) (s : State) : (commit out k s).arg1 = s.arg1 := rfl
@[simp] theorem commit_cursor (out : List Byte) (k : Kind) (s : State) : (commit out k s).cursor = s.cursor := rfl
@[simp] theorem commit_olen (out : List Byte) (k : Kind) (s : State) : (commit out k s).olen = BitVec.ofNat 16 out.length := rfl
@[simp] theorem commit_result (out : List Byte) (k : Kind) (s : State) : (commit out k s).result = s.result := rfl
@[simp] theorem commit_errKind (out : List Byte) (k : Kind) (s : State) : (commit out k s).errKind = s.errKind := rfl
@[simp] theorem commit_errCause (out : List Byte) (k : Kind) (s : State) : (commit out k s).errCause = s.errCause := rfl
@[simp] theorem commit_errBlock (out : List Byte) (k : Kind) (s : State) : (commit out k s).errBlock = s.errBlock := rfl
@[simp] theorem commit_errExp (out : List Byte) (k : Kind) (s : State) : (commit out k s).errExp = s.errExp := rfl
@[simp] theorem commit_errAct (out : List Byte) (k : Kind) (s : State) : (commit out k s).errAct = s.errAct := rfl
@[simp] theorem commit_ll (out : List Byte) (k : Kind) (s : State) : (commit out k s).ll = s.ll := rfl
@[simp] theorem commit_ibuf (out : List Byte) (k : Kind) (s : State) : (commit out k s).ibuf = s.ibuf := rfl
@[simp] theorem commit_obuf (out : List Byte) (k : Kind) (s : State) : (commit out k s).obuf = cellsFrom 0 out := rfl
@[simp] theorem commit_ibufGen (out : List Byte) (k : Kind) (s : State) : (commit out k s).ibufGen = s.ibufGen := rfl
@[simp] theorem commit_obufGen (out : List Byte) (k : Kind) (s : State) : (commit out k s).obufGen = s.obufGen := rfl
@[simp] theorem commit_busyReads (out : List Byte) (k : Kind) (s : State) : (commit out k s).busyReads = s.busyReads := rfl
@[simp] theorem commit_readData (out : List Byte) (k : Kind) (s : State) : (commit out k s).readData = s.readData := rfl
@[simp] theorem commit_script (out : List Byte) (k : Kind) (s : State) : (commit out k s).script = s.script := rfl

/-! ### `resetInput` -/

@[simp] theorem resetInput_cmd (s : State) : (resetInput s).cmd = 0 := rfl
@[simp] theorem resetInput_busy (s : State) : (resetInput s).busy = false := rfl
@[simp] theorem resetInput_done (s : State) : (resetInput s).done = false := rfl
@[simp] theorem resetInput_err (s : State) : (resetInput s).err = false := rfl
@[simp] theorem resetInput_ovalid (s : State) : (resetInput s).ovalid = false := rfl
@[simp] theorem resetInput_llvalid (s : State) : (resetInput s).llvalid = false := rfl
@[simp] theorem resetInput_kind (s : State) : (resetInput s).kind = .none := rfl
@[simp] theorem resetInput_hint (s : State) : (resetInput s).hint = 0 := rfl
@[simp] theorem resetInput_ilen (s : State) : (resetInput s).ilen = 0 := rfl
@[simp] theorem resetInput_arg0 (s : State) : (resetInput s).arg0 = 0 := rfl
@[simp] theorem resetInput_arg1 (s : State) : (resetInput s).arg1 = 0 := rfl
@[simp] theorem resetInput_cursor (s : State) : (resetInput s).cursor = 0 := rfl
@[simp] theorem resetInput_olen (s : State) : (resetInput s).olen = 0 := rfl
@[simp] theorem resetInput_result (s : State) : (resetInput s).result = 0 := rfl
@[simp] theorem resetInput_errKind (s : State) : (resetInput s).errKind = .none := rfl
@[simp] theorem resetInput_errCause (s : State) : (resetInput s).errCause = .none := rfl
@[simp] theorem resetInput_errBlock (s : State) : (resetInput s).errBlock = 0 := rfl
@[simp] theorem resetInput_errExp (s : State) : (resetInput s).errExp = 0 := rfl
@[simp] theorem resetInput_errAct (s : State) : (resetInput s).errAct = 0 := rfl
@[simp] theorem resetInput_ll (s : State) : (resetInput s).ll = LinkLayer.zero := rfl
@[simp] theorem resetInput_ibuf (s : State) : (resetInput s).ibuf = [] := rfl
@[simp] theorem resetInput_obuf (s : State) : (resetInput s).obuf = [] := rfl
@[simp] theorem resetInput_ibufGen (s : State) : (resetInput s).ibufGen = s.ibufGen + 1 := rfl
@[simp] theorem resetInput_obufGen (s : State) : (resetInput s).obufGen = s.obufGen + 1 := rfl
@[simp] theorem resetInput_busyReads (s : State) : (resetInput s).busyReads = s.busyReads := rfl
@[simp] theorem resetInput_readData (s : State) : (resetInput s).readData = s.readData := rfl
@[simp] theorem resetInput_script (s : State) : (resetInput s).script = s.script := rfl

end Sys2Proof.Machine
end

