-- ==== Sys2Proof/Laws/Memory.lean ====
section
/-! SUPPORT. The laws of a buffer's cells: what a read after a write gives, and that every memory operation keeps the
canonical form and the capacity. -/

namespace Sys2Proof.Machine

@[simp] theorem cellAt_nil (i : Nat) : cellAt [] i = none := rfl

theorem cellAt_setCell_same (m : Memory) (i : Nat) (v : Byte) : cellAt (setCell m i v) i = some v := by
  induction m with
  | nil => simp [setCell, cellAt]
  | cons c m ih =>
    obtain ⟨j, w⟩ := c
    simp only [setCell]
    split
    · simp [cellAt]
    · split
      · simp [cellAt]
      · simp [cellAt, *]

theorem cellAt_setCell_other {i k : Nat} (m : Memory) (v : Byte) (h : k ≠ i) :
    cellAt (setCell m i v) k = cellAt m k := by
  induction m with
  | nil => simp [setCell, cellAt, h]
  | cons c m ih =>
    obtain ⟨j, w⟩ := c
    simp only [setCell]
    split
    · simp [cellAt, h]
    · split
      · subst_vars; simp [cellAt, h]
      · simp [cellAt, ih]

/-- The offsets a write leaves are the old ones and the written one. -/
theorem mem_setCell {m : Memory} {i : Nat} {v : Byte} {c : Host.Cell} (h : c ∈ setCell m i v) :
    c = (i, v) ∨ c ∈ m := by
  induction m with
  | nil => simpa [setCell] using h
  | cons d m ih =>
    obtain ⟨j, w⟩ := d
    simp only [setCell] at h
    split at h
    · simpa using h
    · split at h
      · rcases List.mem_cons.1 h with h | h
        · exact .inl h
        · exact .inr (List.mem_cons_of_mem _ h)
      · rcases List.mem_cons.1 h with h | h
        · exact .inr (h ▸ List.mem_cons_self)
        · exact (ih h).imp id (List.mem_cons_of_mem _)

theorem setCell_wf {m : Memory} (i : Nat) (v : Byte) (h : m.wf) : (setCell m i v).wf := by
  induction m with
  | nil => simp [setCell, Memory.wf]
  | cons d m ih =>
    obtain ⟨j, w⟩ := d
    obtain ⟨hj, hm⟩ := List.pairwise_cons.1 h
    simp only [setCell]
    split
    · refine List.pairwise_cons.2 ⟨fun c hc => ?_, h⟩
      rcases List.mem_cons.1 hc with rfl | hc
      · assumption
      · exact lt_trans ‹i < j› (hj c hc)
    · split
      · subst_vars; exact List.pairwise_cons.2 ⟨hj, hm⟩
      · refine List.pairwise_cons.2 ⟨fun c hc => ?_, ih hm⟩
        rcases mem_setCell hc with rfl | hc
        · simp only; omega
        · exact hj c hc

theorem setCell_within {m : Memory} {cap i : Nat} (v : Byte) (h : m.within cap) (hi : i < cap) :
    (setCell m i v).within cap := fun c hc => by
  rcases mem_setCell hc with rfl | hc
  · exact hi
  · exact h c hc

theorem mem_cellsFrom {out : List Byte} {i : Nat} {c : Host.Cell} (h : c ∈ cellsFrom i out) :
    i ≤ c.1 ∧ c.1 < i + out.length := by
  induction out generalizing i with
  | nil => simp [cellsFrom] at h
  | cons v out ih =>
    rcases List.mem_cons.1 h with rfl | h
    · simp
    · have := ih h
      simp only [List.length_cons]
      omega

theorem cellsFrom_wf (i : Nat) (out : List Byte) : (cellsFrom i out).wf := by
  induction out generalizing i with
  | nil => exact List.Pairwise.nil
  | cons v out ih => exact List.pairwise_cons.2 ⟨fun c hc => (mem_cellsFrom hc).1, ih (i + 1)⟩

theorem cellsFrom_within {cap i : Nat} {out : List Byte} (h : i + out.length ≤ cap) :
    Memory.within cap (cellsFrom i out) := fun _ hc => lt_of_lt_of_le (mem_cellsFrom hc).2 h

/-- Reading a buffer in which exactly `out` has been written gives `out`. -/
theorem cellAt_cellsFrom (i : Nat) (out : List Byte) (k : Nat) :
    cellAt (cellsFrom i out) (i + k) = out[k]? := by
  induction out generalizing i k with
  | nil => rfl
  | cons v out ih =>
    cases k with
    | zero => simp [cellsFrom, cellAt]
    | succ k =>
      have h : i + (k + 1) = i + 1 + k := by omega
      rw [cellsFrom, cellAt, if_neg (by omega), h, ih]
      simp

theorem cellAt_cellsFrom_zero (out : List Byte) (k : Nat) : cellAt (cellsFrom 0 out) k = out[k]? := by
  simpa using cellAt_cellsFrom 0 out k

/-- The memory right after reset has the canonical form. -/
theorem reset_memory_wf : State.reset.ibuf.wf ∧ State.reset.obuf.wf := by decide

@[simp] theorem bufRange_length (s : State) (b : Buffer) (lo hi : Nat) : (bufRange s b lo hi).length = hi - lo := by
  simp [bufRange]

theorem bufRange_getElem? (s : State) (b : Buffer) (lo hi k : Nat) :
    (bufRange s b lo hi)[k]? = if k < hi - lo then some (bufByte s b (lo + k)) else none := by
  split
  · rename_i h
    rw [List.getElem?_eq_getElem (by simpa using h)]
    simp [bufRange, List.getElem_range']
  · rename_i h
    exact List.getElem?_eq_none (by simpa using h)

theorem bufRange_getD {s : State} {b : Buffer} {lo hi k : Nat} (h : k < hi - lo) :
    (bufRange s b lo hi).getD k 0 = bufByte s b (lo + k) := by
  rw [List.getD_eq_getElem?_getD, bufRange_getElem?, if_pos h, Option.getD_some]

/-- Two states whose bytes agree on a range read the same range. -/
theorem bufRange_congr {s t : State} {b : Buffer} {lo hi : Nat}
    (h : ∀ i, lo ≤ i → i < hi → bufByte s b i = bufByte t b i) : bufRange s b lo hi = bufRange t b lo hi := by
  refine List.map_congr_left fun i hi' => ?_
  have := List.mem_range'_1.1 hi'
  exact h i this.1 (by omega)

@[simp] theorem inputFrame_length (s : State) : (inputFrame s).length = s.ilen.toNat := by simp [inputFrame]

/-- A committed output reads back byte by byte (rule R117). -/
theorem bufByte_commit {out : List Byte} {k : Kind} {s : State} {i : Nat} (h : i < out.length) :
    bufByte (commit out k s) .obuf i = out.getD i 0 := by
  simp [bufByte, bufCells, cellAt_cellsFrom_zero, h]

/-- A committed output reads back whole (rule R117). -/
theorem bufRange_commit (out : List Byte) (k : Kind) (s : State) :
    bufRange (commit out k s) .obuf 0 out.length = out := by
  refine List.ext_getElem? fun i => ?_
  rw [bufRange_getElem?]
  split
  · rename_i h
    rw [Nat.zero_add, bufByte_commit (by simpa using h), List.getD_eq_getElem?_getD]
    simp [List.getElem?_eq_getElem (show i < out.length by simpa using h)]
  · rename_i h
    rw [List.getElem?_eq_none (by simpa using h)]

end Sys2Proof.Machine
end

