-- ==== Sys2Proof/Laws/Deframer.lean ====
section
/-! SUPPORT. What STRIP's checks and STRIP itself can do, said once (rules R110 to R121). -/

namespace Sys2Proof.Machine

/-! ### The parameters of the instance -/

@[simp] theorem cvs_ibufCap : cvs.ibufCap = 512 := rfl
@[simp] theorem cvs_obufCap : cvs.obufCap = 512 := rfl
@[simp] theorem cvs_crcLen : cvs.crcLen = 2 := rfl
@[simp] theorem cvs_llLen : cvs.llLen = 10 := rfl
@[simp] theorem cvs_wiredLlLen : cvs.wiredLlLen = 6 := rfl
@[simp] theorem cvs_aBlock : cvs.aBlock = 16 := rfl
@[simp] theorem cvs_bBlock1 : cvs.bBlock1 = 128 := rfl
@[simp] theorem cvs_minBlock : cvs.minBlock = 3 := rfl
@[simp] theorem cvs_aMinL : cvs.aMinL = 9 := rfl
@[simp] theorem cvs_wiredStart : cvs.wiredStart = 0x68 := rfl
@[simp] theorem cvs_wiredStop : cvs.wiredStop = 0x16 := rfl
@[simp] theorem cvs_hintFalsePolicy : cvs.hintFalsePolicy = .bypass := rfl

/-! ### Ranges -/

theorem range_length (B : List Byte) (a b : Nat) : (range B a b).length = min (b - a) (B.length - a) := by
  simp [range]

theorem range_length_of_le {B : List Byte} {a b : Nat} (h : b ≤ B.length) : (range B a b).length = b - a := by
  rw [range_length]; omega

theorem range_getElem? (B : List Byte) (a b i : Nat) : (range B a b)[i]? = if i < b - a then B[a + i]? else none := by
  simp [range, List.getElem?_take, List.getElem?_drop]

theorem range_full (B : List Byte) : range B 0 B.length = B := by simp [range]

theorem mem_of_mem_range {B : List Byte} {a b : Nat} {v : Byte} (h : v ∈ range B a b) : v ∈ B :=
  List.mem_of_mem_drop (List.mem_of_mem_take h)

/-! ### The hint -/

theorem hintOf_eq_reserved (h : BitVec 2) : hintOf h = .reserved ↔ h = 3 := by revert h; decide

theorem hintOf_eq_unknown (h : BitVec 2) : hintOf h = .unknown ↔ h = 0 := by revert h; decide

theorem hintOf_eq_isTrue (h : BitVec 2) : hintOf h = .isTrue ↔ h = 1 := by revert h; decide

theorem hintOf_eq_isFalse (h : BitVec 2) : hintOf h = .isFalse ↔ h = 2 := by revert h; decide

/-! ### Wired detection -/

/-- `is_wired(B)` of the instance (rule R65). -/
theorem isWired_iff (B : List Byte) : isWired cvs B = true ↔
    5 ≤ B.length ∧ byteAt B 0 = 0x68 ∧ byteAt B 3 = 0x68 ∧ byteAt B (B.length - 1) = 0x16 := by
  simp [isWired, and_assoc]

/-! ### The checks -/

theorem Check.andThen_eq_ok {c : Check} {k : List Byte → Check} {out : List Byte} :
    c.andThen k = .ok out ↔ ∃ o, c = .ok o ∧ k o = .ok out := by
  cases c <;> simp [Check.andThen]

theorem Check.andThen_eq_fail {c : Check} {k : List Byte → Check} {f : Failure} :
    c.andThen k = .fail f ↔ c = .fail f ∨ ∃ o, c = .ok o ∧ k o = .fail f := by
  cases c <;> simp [Check.andThen]

theorem checkBlock_eq_ok {p : Params} {B : List Byte} {block a n : Nat} {out : List Byte} :
    checkBlock p B block a n = .ok out ↔
      crc16 p (range B a (a + n)) = storedCrc p B (a + n) ∧ out = range B a (a + n) := by
  unfold checkBlock
  split <;> simp_all [eq_comm]

theorem checkBlock_eq_fail {p : Params} {B : List Byte} {block a n : Nat} {f : Failure} :
    checkBlock p B block a n = .fail f ↔
      crc16 p (range B a (a + n)) ≠ storedCrc p B (a + n) ∧
        f = ⟨.crcMismatch, block, (crc16 p (range B a (a + n))).toNat, (storedCrc p B (a + n)).toNat⟩ := by
  unfold checkBlock
  split <;> simp_all [eq_comm]

theorem checkBlockB_eq_ok {p : Params} {B : List Byte} {block a len : Nat} {out : List Byte} :
    checkBlockB p B block a len = .ok out ↔
      p.minBlock ≤ len ∧ checkBlock p B block a (len - p.crcLen) = .ok out := by
  unfold checkBlockB
  split
  · simp only [reduceCtorEq, false_iff, not_and]; omega
  · simp only [iff_and_self]; omega

theorem checkBlockB_eq_fail {p : Params} {B : List Byte} {block a len : Nat} {f : Failure} :
    checkBlockB p B block a len = .fail f ↔
      len < p.minBlock ∧ f = ⟨.shortBlock, block, p.minBlock, len⟩ ∨
        p.minBlock ≤ len ∧ checkBlock p B block a (len - p.crcLen) = .fail f := by
  unfold checkBlockB
  split
  · rename_i h
    simp only [Check.fail.injEq, h, true_and, eq_comm (a := f)]
    refine ⟨.inl, fun h' => h'.resolve_right fun h'' => ?_⟩
    omega
  · rename_i h
    simp only [h, false_and, false_or, iff_and_self]
    intro _; omega

/-- The wired check passes on a frame whose copies, count and checksum agree, and on no other (rule R113). -/
theorem checkWired_eq_ok {B out : List Byte} : checkWired B = .ok out ↔
    byteAt B 1 = byteAt B 2 ∧ byteAt B 1 + 6 = B.length ∧
      (sum8 (range B 4 (B.length - 2))).toNat = byteAt B (B.length - 2) ∧ out = range B 0 (B.length - 2) := by
  unfold checkWired
  split
  · simp_all
  · split
    · simp_all
    · split <;> simp_all [eq_comm]

/-- A passed Type B check (rule R115). -/
theorem checkTypeB_eq_ok {B out : List Byte} : checkTypeB cvs B = .ok out ↔
    3 ≤ min B.length 128 ∧
      crc16 cvs (range B 0 (min B.length 128 - 2)) = storedCrc cvs B (min B.length 128 - 2) ∧
      (B.length ≤ 128 ∧ out = range B 0 (B.length - 2) ∨
        131 ≤ B.length ∧ crc16 cvs (range B 128 (B.length - 2)) = storedCrc cvs B (B.length - 2) ∧
          out = range B 0 126 ++ range B 128 (B.length - 2)) := by
  simp only [checkTypeB, Check.andThen_eq_ok, checkBlockB_eq_ok, checkBlock_eq_ok, cvs_minBlock, cvs_bBlock1,
    cvs_crcLen, Nat.zero_add]
  by_cases h : B.length > 128
  · have h1 : min B.length 128 = 128 := by omega
    have h7 : 3 ≤ B.length - 128 ↔ 131 ≤ B.length := by omega
    have h8 : ¬B.length ≤ 128 := by omega
    have h2 (h : 131 ≤ B.length) : 128 + (B.length - 128 - 2) = B.length - 2 := by omega
    simp only [h, if_true, h1, h7, h8, false_and, false_or, Check.andThen_eq_ok, checkBlockB_eq_ok,
      checkBlock_eq_ok, cvs_minBlock, cvs_crcLen, Check.ok.injEq]
    constructor
    · rintro ⟨o, ⟨h3, h4, ho⟩, o2, ⟨h5, h6, ho2⟩, hout⟩
      rw [h2 h5] at h6 ho2
      exact ⟨h3, h4, h5, h6, by rw [← hout, ho, ho2]⟩
    · rintro ⟨h3, h4, h5, h6, rfl⟩
      rw [← h2 h5] at h6 ⊢
      exact ⟨_, ⟨h3, h4, rfl⟩, _, ⟨h5, h6, rfl⟩, rfl⟩
  · have h1 : min B.length 128 = B.length := by omega
    simp only [h, if_false, h1, Check.ok.injEq]
    constructor
    · rintro ⟨o, ⟨h3, h4, rfl⟩, rfl⟩
      exact ⟨h3, h4, .inl ⟨by omega, rfl⟩⟩
    · rintro ⟨h3, h4, ⟨-, rfl⟩ | ⟨h5, -⟩⟩
      · exact ⟨_, ⟨h3, h4, rfl⟩, rfl⟩
      · omega

/-- The offset of block `k` of a Type A frame (rule R67). -/
def offsetA (k : Nat) : Nat := if k = 0 then 0 else 12 + 18 * (k - 1)

/-- The data length of block `k` of a Type A frame with `d` data bytes (rule R67). -/
def lengthA (d k : Nat) : Nat := if k = 0 then 10 else min 16 (d - 16 * (k - 1))

/-- The data of block `k` of a Type A frame (rule R67). -/
def dataA (B : List Byte) (d k : Nat) : List Byte := range B (offsetA k) (offsetA k + lengthA d k)

/-- Block `k` of a Type A frame carries the CRC of its data (rule R67). -/
def crcOkA (B : List Byte) (d k : Nat) : Prop :=
  crc16 cvs (dataA B d k) = storedCrc cvs B (offsetA k + lengthA d k)

/-- What a failed CRC of block `k` reports (rule R116). -/
def mismatchA (B : List Byte) (d k : Nat) : Failure :=
  ⟨.crcMismatch, k, (crc16 cvs (dataA B d k)).toNat, (storedCrc cvs B (offsetA k + lengthA d k)).toNat⟩

theorem checkBlock_offsetA (B : List Byte) (d k : Nat) (hk : 1 ≤ k) :
    checkBlock cvs B k (cvs.llLen + cvs.crcLen + (cvs.aBlock + cvs.crcLen) * (k - 1))
      (min cvs.aBlock (d - cvs.aBlock * (k - 1))) = checkBlock cvs B k (offsetA k) (lengthA d k) := by
  simp only [cvs_llLen, cvs_crcLen, cvs_aBlock, offsetA, lengthA, if_neg (show ¬k = 0 by omega)]

/-- The data blocks `k` to `k + m - 1` pass exactly when each carries its CRC (rule R116). -/
theorem checkBlocksA_eq_ok {B : List Byte} {d m k : Nat} {pre out : List Byte} (hk : 1 ≤ k) :
    checkBlocksA cvs B d m k pre = .ok out ↔
      (∀ j, j < m → crcOkA B d (k + j)) ∧ out = pre ++ (List.range m).flatMap fun j => dataA B d (k + j) := by
  induction m generalizing k pre with
  | zero => simp [checkBlocksA, eq_comm]
  | succ m ih =>
    rw [checkBlocksA, checkBlock_offsetA B d k hk]
    simp only [Check.andThen_eq_ok, checkBlock_eq_ok, ih (show 1 ≤ k + 1 by omega)]
    have hr : (List.range (m + 1)).flatMap (fun j => dataA B d (k + j)) =
        dataA B d k ++ (List.range m).flatMap fun j => dataA B d (k + 1 + j) := by
      rw [List.range_succ_eq_map, List.flatMap_cons, List.flatMap_map]
      simp only [Nat.add_zero]
      congr 2
      funext j
      congr 1
      omega
    rw [hr]
    constructor
    · rintro ⟨o, ⟨h1, rfl⟩, h2, rfl⟩
      refine ⟨fun j hj => ?_, by simp [dataA]⟩
      cases j with
      | zero => exact h1
      | succ j => have := h2 j (by omega); rwa [show k + 1 + j = k + (j + 1) by omega] at this
    · rintro ⟨h1, rfl⟩
      refine ⟨_, ⟨h1 0 (by omega), rfl⟩, fun j hj => ?_, by simp [dataA]⟩
      have := h1 (j + 1) (by omega)
      rwa [show k + (j + 1) = k + 1 + j by omega] at this

/-- The data blocks fail at the first block without its CRC (rule R116). -/
theorem checkBlocksA_eq_fail {B : List Byte} {d m k : Nat} {pre : List Byte} {f : Failure} (hk : 1 ≤ k) :
    checkBlocksA cvs B d m k pre = .fail f ↔
      ∃ j, j < m ∧ (∀ i, i < j → crcOkA B d (k + i)) ∧ ¬crcOkA B d (k + j) ∧ f = mismatchA B d (k + j) := by
  induction m generalizing k pre with
  | zero => simp [checkBlocksA]
  | succ m ih =>
    rw [checkBlocksA, checkBlock_offsetA B d k hk]
    simp only [Check.andThen_eq_fail, checkBlock_eq_fail, checkBlock_eq_ok, ih (show 1 ≤ k + 1 by omega)]
    constructor
    · rintro (⟨h1, rfl⟩ | ⟨o, ⟨h1, rfl⟩, j, hj, h2, h3, rfl⟩)
      · exact ⟨0, by omega, by simp, h1, rfl⟩
      · refine ⟨j + 1, by omega, fun i hi => ?_, ?_, ?_⟩
        · cases i with
          | zero => exact h1
          | succ i => have := h2 i (by omega); rwa [show k + 1 + i = k + (i + 1) by omega] at this
        · rwa [show k + (j + 1) = k + 1 + j by omega]
        · rw [show k + (j + 1) = k + 1 + j by omega]
    · rintro ⟨j, hj, h2, h3, rfl⟩
      cases j with
      | zero => exact .inl ⟨h3, rfl⟩
      | succ j =>
        refine .inr ⟨_, ⟨h2 0 (by omega), rfl⟩, j, by omega, fun i hi => ?_, ?_, ?_⟩
        · have := h2 (i + 1) (by omega)
          rwa [show k + (i + 1) = k + 1 + i by omega] at this
        · rwa [show k + 1 + j = k + (j + 1) by omega]
        · rw [show k + 1 + j = k + (j + 1) by omega]

/-- The data blocks and the total length of a Type A frame of L-field `l` (rule R67). -/
def blocksOfA (l : Nat) : Nat := (l - 9 + 15) / 16

theorem typeA_numbers (l : Nat) : typeADataLen cvs l = l - 9 ∧ typeABlockCount cvs (l - 9) = blocksOfA l ∧
    typeATotal cvs l (blocksOfA l) = l + 3 + 2 * blocksOfA l := by
  refine ⟨?_, rfl, ?_⟩
  · simp only [typeADataLen, cvs_llLen]; omega
  · simp only [typeATotal, cvs_crcLen]; omega

theorem checkTypeA_unfold (B : List Byte) : checkTypeA cvs B =
    if byteAt B 0 < 9 then .fail ⟨.lfieldTooSmall, 0, 9, byteAt B 0⟩
    else if B.length < byteAt B 0 + 3 + 2 * blocksOfA (byteAt B 0) then
      .fail ⟨.shortBuffer, 0, byteAt B 0 + 3 + 2 * blocksOfA (byteAt B 0), B.length⟩
    else (checkBlock cvs B 0 0 10).andThen fun out =>
      checkBlocksA cvs B (byteAt B 0 - 9) (blocksOfA (byteAt B 0)) 1 out := by
  obtain ⟨h1, h2, h3⟩ := typeA_numbers (byteAt B 0)
  rw [checkTypeA, h1, h2, checkTypeAOf, h3]
  rfl

/-- A passed Type A check: every block carries its CRC, and the output is their data in order (rule R116). -/
theorem checkTypeA_eq_ok {B out : List Byte} : checkTypeA cvs B = .ok out ↔
    9 ≤ byteAt B 0 ∧ byteAt B 0 + 3 + 2 * blocksOfA (byteAt B 0) ≤ B.length ∧
      (∀ k, k ≤ blocksOfA (byteAt B 0) → crcOkA B (byteAt B 0 - 9) k) ∧
      out = (List.range (blocksOfA (byteAt B 0) + 1)).flatMap (dataA B (byteAt B 0 - 9)) := by
  rw [checkTypeA_unfold]
  split
  · simp only [reduceCtorEq, false_iff]; omega
  · split
    · simp only [reduceCtorEq, false_iff]; omega
    · simp only [Check.andThen_eq_ok, checkBlock_eq_ok, checkBlocksA_eq_ok (le_refl 1), List.range_succ_eq_map,
        List.flatMap_cons, List.flatMap_map]
      constructor
      · rintro ⟨o, ⟨h1, rfl⟩, h2, rfl⟩
        refine ⟨by omega, by omega, fun k hk => ?_, ?_⟩
        · cases k with
          | zero => exact h1
          | succ k => have := h2 k (by omega); rwa [Nat.add_comm 1 k] at this
        · simp only [Nat.add_comm 1]; rfl
      · rintro ⟨-, -, h, rfl⟩
        refine ⟨_, ⟨h 0 (by omega), rfl⟩, fun j hj => ?_, ?_⟩
        · have := h (j + 1) (by omega); rwa [Nat.add_comm j 1] at this
        · simp only [Nat.add_comm 1]; rfl

/-- A failed Type A check: which test failed first (rule R116). -/
theorem checkTypeA_eq_fail {B : List Byte} {f : Failure} : checkTypeA cvs B = .fail f ↔
    byteAt B 0 < 9 ∧ f = ⟨.lfieldTooSmall, 0, 9, byteAt B 0⟩ ∨
      9 ≤ byteAt B 0 ∧ B.length < byteAt B 0 + 3 + 2 * blocksOfA (byteAt B 0) ∧
        f = ⟨.shortBuffer, 0, byteAt B 0 + 3 + 2 * blocksOfA (byteAt B 0), B.length⟩ ∨
      9 ≤ byteAt B 0 ∧ byteAt B 0 + 3 + 2 * blocksOfA (byteAt B 0) ≤ B.length ∧
        ∃ k, k ≤ blocksOfA (byteAt B 0) ∧ (∀ j, j < k → crcOkA B (byteAt B 0 - 9) j) ∧
          ¬crcOkA B (byteAt B 0 - 9) k ∧ f = mismatchA B (byteAt B 0 - 9) k := by
  rw [checkTypeA_unfold]
  split
  · rename_i h
    simp only [Check.fail.injEq, h, true_and, eq_comm (a := f)]
    constructor
    · exact .inl
    · rintro (h | h | h)
      · exact h
      · omega
      · omega
  · split
    · rename_i h h'
      simp only [Check.fail.injEq, h, h', false_and, false_or, true_and, eq_comm (a := f)]
      constructor
      · exact fun hf => .inl ⟨by omega, hf⟩
      · rintro (h | h)
        · exact h.2
        · omega
    · rename_i h h'
      simp only [h, h', false_and, and_false, false_or, Check.andThen_eq_fail, checkBlock_eq_fail, checkBlock_eq_ok,
        checkBlocksA_eq_fail (le_refl 1)]
      constructor
      · rintro (⟨h1, rfl⟩ | ⟨o, ⟨h1, rfl⟩, j, hj, h2, h3, rfl⟩)
        · exact ⟨by omega, by omega, 0, by omega, by simp, h1, rfl⟩
        · refine ⟨by omega, by omega, j + 1, by omega, fun i hi => ?_, ?_, ?_⟩
          · cases i with
            | zero => exact h1
            | succ i => have := h2 i (by omega); rwa [Nat.add_comm 1 i] at this
          · rwa [Nat.add_comm j 1]
          · rw [Nat.add_comm j 1]
      · rintro ⟨-, -, k, hk, h2, h3, rfl⟩
        cases k with
        | zero => exact .inl ⟨h3, rfl⟩
        | succ k =>
          refine .inr ⟨_, ⟨h2 0 (by omega), rfl⟩, k, by omega, fun i hi => ?_, ?_, ?_⟩
          · have := h2 (i + 1) (by omega)
            rwa [Nat.add_comm i 1] at this
          · rwa [Nat.add_comm 1 k]
          · rw [Nat.add_comm 1 k]

/-- The data of the first `m + 1` blocks of a frame that is long enough: 10 bytes and then 16 a block, the last block
what remains (rule R116: `len(out) = 10 + D`). -/
theorem flatMap_dataA_length {B : List Byte} {d m : Nat} (hm : m ≤ (d + 15) / 16)
    (hB : d + 12 + 2 * ((d + 15) / 16) ≤ B.length) :
    ((List.range (m + 1)).flatMap (dataA B d)).length = 10 + min d (16 * m) := by
  induction m with
  | zero =>
    rw [Nat.zero_add, List.range_one, List.flatMap_singleton, dataA, range_length_of_le] <;>
      simp only [offsetA, lengthA, if_true] <;> omega
  | succ m ih =>
    rw [List.range_succ, List.flatMap_append, List.length_append, ih (by omega), List.flatMap_singleton, dataA]
    rw [range_length_of_le] <;> simp only [offsetA, lengthA, if_neg (show ¬m + 1 = 0 by omega)] <;> omega

/-! ### The verdict -/

/-- Every way STRIP's parsing can end (rules R110 and R111): the wired path, a short wireless buffer, the bypass, a
passed check, the fallback, and a failed check. -/
theorem deframe_cases (h : Hint) (B : List Byte) :
    B.length = 0 ∧ deframe cvs h B = .crcError ⟨.shortBuffer, 0, 1, 0⟩ ∨
      1 ≤ B.length ∧ isWired cvs B = true ∧
        ((∃ out, checkWired B = .ok out ∧ deframe cvs h B = .commit out .wired) ∨
          ∃ f, checkWired B = .fail f ∧ deframe cvs h B = .crcError f) ∨
      1 ≤ B.length ∧ isWired cvs B = false ∧
        (B.length < byteAt B 0 + 1 ∧
            deframe cvs h B = .crcError ⟨.shortBuffer, 0, byteAt B 0 + 1, B.length⟩ ∨
          byteAt B 0 + 1 ≤ B.length ∧
            (h = .isFalse ∧ deframe cvs h B = .commit B .wirelessNoCrc ∨
              h ≠ .isFalse ∧
                ((∃ out, B.length = byteAt B 0 + 1 ∧ checkTypeB cvs B = .ok out ∧
                    deframe cvs h B = .commit out .wirelessB) ∨
                  (∃ out, byteAt B 0 + 1 < B.length ∧ checkTypeA cvs B = .ok out ∧
                    deframe cvs h B = .commit out .wirelessA) ∨
                  ∃ f, (B.length = byteAt B 0 + 1 ∧ checkTypeB cvs B = .fail f ∨
                      byteAt B 0 + 1 < B.length ∧ checkTypeA cvs B = .fail f) ∧
                    (h = .unknown ∧ deframe cvs h B = .commit B .wirelessNoCrc ∨
                      h ≠ .unknown ∧ deframe cvs h B = .crcError f)))) := by
  by_cases h0 : B.length = 0
  · exact .inl ⟨h0, by simp [deframe, h0]⟩
  refine .inr ?_
  cases hw : isWired cvs B with
  | true =>
    refine .inl ⟨by omega, rfl, ?_⟩
    cases hc : checkWired B with
    | ok out => exact .inl ⟨out, rfl, by simp [deframe, h0, hw, hc]⟩
    | fail f => exact .inr ⟨f, rfl, by simp [deframe, h0, hw, hc]⟩
  | false =>
    refine .inr ⟨by omega, rfl, ?_⟩
    have hd : deframe cvs h B = deframeWireless cvs h B := by simp [deframe, h0, hw]
    rw [hd]
    by_cases hs : B.length < byteAt B 0 + 1
    · exact .inl ⟨hs, by simp [deframeWireless, expectedLen, hs]⟩
    refine .inr ⟨by omega, ?_⟩
    by_cases hf : h = .isFalse
    · exact .inl ⟨hf, by simp [deframeWireless, expectedLen, hs, hf]⟩
    refine .inr ⟨hf, ?_⟩
    by_cases he : B.length = byteAt B 0 + 1
    · cases hc : checkTypeB cvs B with
      | ok out => exact .inl ⟨out, he, rfl, by simp [deframeWireless, checkWireless, expectedLen, he, hf, hc]⟩
      | fail f =>
        refine .inr (.inr ⟨f, .inl ⟨he, rfl⟩, ?_⟩)
        by_cases hu : h = .unknown <;> simp [deframeWireless, checkWireless, expectedLen, he, hu, hf, hc]
    · have hl : byteAt B 0 + 1 < B.length := by omega
      cases hc : checkTypeA cvs B with
      | ok out =>
        exact .inr (.inl ⟨out, hl, rfl, by simp [deframeWireless, checkWireless, expectedLen, he, hs, hf, hc]⟩)
      | fail f =>
        refine .inr (.inr ⟨f, .inr ⟨hl, rfl⟩, ?_⟩)
        by_cases hu : h = .unknown <;> simp [deframeWireless, checkWireless, expectedLen, he, hs, hu, hf, hc]

/-- The kind of every failure of a check is `CRC_ERROR` (rule R161). -/
theorem checkWired_fail_kind {B : List Byte} {f : Failure} (h : checkWired B = .fail f) :
    causeKind f.cause = .crcError := by
  unfold checkWired at h
  split at h
  · cases h; rfl
  · split at h
    · cases h; rfl
    · split at h <;> cases h
      rfl

theorem checkTypeB_fail_kind {B : List Byte} {f : Failure} (h : checkTypeB cvs B = .fail f) :
    causeKind f.cause = .crcError := by
  simp only [checkTypeB, Check.andThen_eq_fail, checkBlockB_eq_fail, checkBlock_eq_fail] at h
  rcases h with (⟨-, rfl⟩ | ⟨-, -, rfl⟩) | ⟨o, -, h⟩
  · rfl
  · rfl
  · split at h
    · simp only [Check.andThen_eq_fail, checkBlockB_eq_fail, checkBlock_eq_fail] at h
      rcases h with (⟨-, rfl⟩ | ⟨-, -, rfl⟩) | ⟨o, -, h⟩
      · rfl
      · rfl
      · cases h
    · cases h

theorem checkTypeA_fail_kind {B : List Byte} {f : Failure} (h : checkTypeA cvs B = .fail f) :
    causeKind f.cause = .crcError := by
  rcases checkTypeA_eq_fail.1 h with ⟨-, rfl⟩ | ⟨-, -, rfl⟩ | ⟨-, -, k, -, -, -, rfl⟩ <;> rfl

/-- A committed output is no longer than the input, has a kind, and holds input bytes only (rules R117 and R118). -/
theorem deframe_commit {h : Hint} {B out : List Byte} {k : Kind} (hd : deframe cvs h B = .commit out k) :
    out.length ≤ B.length ∧ k ≠ .none ∧ ∀ v ∈ out, v ∈ B := by
  rcases deframe_cases h B with ⟨-, he⟩ | ⟨-, -, (⟨o, hc, he⟩ | ⟨f, -, he⟩)⟩ | ⟨-, -, ⟨-, he⟩ | ⟨-, ⟨-, he⟩ | ⟨-, h'⟩⟩⟩
  · rw [he] at hd; cases hd
  · rw [he] at hd; cases hd
    obtain ⟨-, -, -, rfl⟩ := checkWired_eq_ok.1 hc
    exact ⟨by rw [range_length]; omega, by simp, fun v hv => mem_of_mem_range hv⟩
  · rw [he] at hd; cases hd
  · rw [he] at hd; cases hd
  · rw [he] at hd; cases hd
    exact ⟨le_refl _, by simp, fun v hv => hv⟩
  · rcases h' with ⟨o, hl, hc, he⟩ | ⟨o, hl, hc, he⟩ | ⟨f, -, ⟨-, he⟩ | ⟨-, he⟩⟩
    · rw [he] at hd; cases hd
      obtain ⟨-, -, ⟨h1, rfl⟩ | ⟨h1, -, rfl⟩⟩ := checkTypeB_eq_ok.1 hc
      · exact ⟨by rw [range_length]; omega, by simp, fun v hv => mem_of_mem_range hv⟩
      · refine ⟨by simp only [List.length_append, range_length]; omega, by simp, fun v hv => ?_⟩
        rcases List.mem_append.1 hv with hv | hv <;> exact mem_of_mem_range hv
    · rw [he] at hd; cases hd
      obtain ⟨h9, hT, -, rfl⟩ := checkTypeA_eq_ok.1 hc
      refine ⟨?_, by simp, fun v hv => ?_⟩
      · unfold blocksOfA at hT ⊢
        rw [flatMap_dataA_length (by omega) (by omega)]
        omega
      · obtain ⟨k, -, hv⟩ := List.mem_flatMap.1 hv
        exact mem_of_mem_range hv
    · rw [he] at hd; cases hd
      exact ⟨le_refl _, by simp, fun v hv => hv⟩
    · rw [he] at hd; cases hd

/-- Every error STRIP's parsing ends in is a `CRC_ERROR` cause (rule R161). -/
theorem deframe_crcError {h : Hint} {B : List Byte} {f : Failure} (hd : deframe cvs h B = .crcError f) :
    causeKind f.cause = .crcError := by
  rcases deframe_cases h B with ⟨-, he⟩ | ⟨-, -, (⟨o, hc, he⟩ | ⟨g, hc, he⟩)⟩ | ⟨-, -, ⟨-, he⟩ | ⟨-, ⟨-, he⟩ | ⟨-, h'⟩⟩⟩
  · rw [he] at hd; cases hd; rfl
  · rw [he] at hd; cases hd
  · rw [he] at hd; cases hd; exact checkWired_fail_kind hc
  · rw [he] at hd; cases hd; rfl
  · rw [he] at hd; cases hd
  · rcases h' with ⟨o, -, -, he⟩ | ⟨o, -, -, he⟩ | ⟨g, hg, ⟨-, he⟩ | ⟨-, he⟩⟩
    · rw [he] at hd; cases hd
    · rw [he] at hd; cases hd
    · rw [he] at hd; cases hd
    · rw [he] at hd; cases hd
      rcases hg with ⟨-, hg⟩ | ⟨-, hg⟩
      · exact checkTypeB_fail_kind hg
      · exact checkTypeA_fail_kind hg

/-! ### Operation STRIP -/

@[simp] theorem inputFrame_stripStart (s : State) : inputFrame (stripStart s) = inputFrame s := rfl

/-- STRIP on a legal input ends as its parsing says (rule R110). -/
theorem runStrip_legal {s : State} (h1 : s.ilen.toNat ≤ 512) (h2 : s.hint ≠ 3) :
    runStrip cvs s = endStrip (deframe cvs (hintOf s.hint) (inputFrame s)) (stripStart s) := by
  rw [runStrip, stripBody, if_neg (show ¬(stripStart s).ilen.toNat > cvs.ibufCap from by simpa using h1),
    if_neg (fun h : hintOf (stripStart s).hint = .reserved => h2 ((hintOf_eq_reserved _).1 h))]
  rfl

/-- Everything STRIP can do: its start actions, then an error whose kind is its cause's, or a commit of an output no
longer than the input frame. -/
theorem runStrip_cases (s : State) :
    (∃ k f, runStrip cvs s = raiseError k f (stripStart s) ∧ k = causeKind f.cause ∧ k ≠ .none) ∨
      ∃ out k, runStrip cvs s = commit out k (stripStart s) ∧ s.ilen.toNat ≤ 512 ∧ s.hint ≠ 3 ∧
        out.length ≤ s.ilen.toNat ∧ k ≠ .none ∧
        deframe cvs (hintOf s.hint) (inputFrame s) = .commit out k := by
  by_cases h1 : s.ilen.toNat > 512
  · refine .inl ⟨.unexpectedState, ⟨.badLen, 0, 512, s.ilen.toNat⟩, ?_, rfl, by simp⟩
    rw [runStrip, stripBody, if_pos (show (stripStart s).ilen.toNat > cvs.ibufCap from h1)]
    rfl
  by_cases h2 : s.hint = 3
  · refine .inl ⟨.unexpectedState, ⟨.badHint, 0, 0, 3⟩, ?_, rfl, by simp⟩
    rw [runStrip, stripBody, if_neg (show ¬(stripStart s).ilen.toNat > cvs.ibufCap from h1),
      if_pos (show hintOf (stripStart s).hint = .reserved from (hintOf_eq_reserved _).2 h2)]
  rw [runStrip_legal (by omega) h2]
  cases hd : deframe cvs (hintOf s.hint) (inputFrame s) with
  | commit out k =>
    obtain ⟨h3, h4, -⟩ := deframe_commit hd
    exact .inr ⟨out, k, rfl, by omega, h2, by simpa using h3, h4, rfl⟩
  | crcError f =>
    exact .inl ⟨_, f, rfl, (deframe_crcError hd).symm, by simp⟩

end Sys2Proof.Machine
end

