-- ==== Sys2Proof/Laws/Flags.lean ====
section
/-! SUPPORT. The bits of the status byte (rule R18) and the codes of the enumerated registers. -/

namespace Sys2Proof.Machine

theorem statusByte_bits (s : State) :
    (statusByte s).getLsbD 0 = s.busy ∧ (statusByte s).getLsbD 1 = s.done ∧ (statusByte s).getLsbD 2 = s.err ∧
      (statusByte s).getLsbD 3 = s.ovalid ∧ (statusByte s).getLsbD 4 = s.llvalid ∧
      (statusByte s).extractLsb' 5 3 = kindCode s.kind := by
  unfold statusByte
  generalize s.busy = b, s.done = d, s.err = e, s.ovalid = o, s.llvalid = l, s.kind = k
  cases k <;> revert b d e o l <;> decide

/-- Different kinds have different numbers (rule R18). -/
theorem kindCode_inj (k k' : Kind) : kindCode k = kindCode k' ↔ k = k' := by cases k <;> cases k' <;> decide

end Sys2Proof.Machine
end

