-- ==== Sys2Proof/Laws/Frames.lean ====
section
/-! SUPPORT. A frame's blocks read back: the data of a block that `withCrc` built, the CRC stored after it, and the
input frame of a buffer in which exactly a frame has been written. -/

namespace Sys2Proof.Machine

open Sys2Proof.Reference

/-- The data of a built block, wherever it stands in the frame. -/
theorem range_withCrc (pre d rest : List Byte) :
    range (pre ++ withCrc d ++ rest) pre.length (pre.length + d.length) = d := by
  simp [range, withCrc, List.append_assoc]

/-- The CRC stored after a built block is the CRC of its data (rules R41 and R91). -/
theorem storedCrc_withCrc (pre d rest : List Byte) :
    storedCrc cvs (pre ++ withCrc d ++ rest) (pre.length + d.length) = crc16 cvs d := by
  have h0 : (pre ++ withCrc d ++ rest).getD (pre.length + d.length) 0 = (crc16 cvs d).extractLsb' 8 8 := by
    simp [withCrc, List.getD_eq_getElem?_getD, List.append_assoc]
  have h1 : (pre ++ withCrc d ++ rest).getD (pre.length + d.length + 1) 0 = (crc16 cvs d).extractLsb' 0 8 := by
    simp [withCrc, List.getD_eq_getElem?_getD, List.append_assoc, Nat.add_assoc]
  show BitVec.ofNat 16 (u16be _ _) = _
  unfold u16be byteAt
  rw [h0, h1]
  have hc := (crc16 cvs d).isLt
  apply BitVec.eq_of_toNat_eq
  simp only [BitVec.extractLsb'_toNat, Nat.shiftRight_eq_div_pow, BitVec.toNat_ofNat]
  omega

/-- The input frame of a buffer that holds exactly `frame`, `ILEN` its length. -/
theorem inputFrame_cellsFrom {s : State} {frame : List Byte} (hb : s.ibuf = cellsFrom 0 frame)
    (hn : s.ilen.toNat = frame.length) : inputFrame s = frame := by
  refine List.ext_getElem? fun i => ?_
  rw [inputFrame, bufRange_getElem?, hn]
  split
  · rename_i h
    have h' : i < frame.length := by omega
    rw [Nat.zero_add, bufByte, show bufCells s .ibuf = cellsFrom 0 frame from hb, cellAt_cellsFrom_zero,
      List.getElem?_eq_getElem h']
    rfl
  · rename_i h
    rw [List.getElem?_eq_none (by omega)]

end Sys2Proof.Machine
end

