-- ==== Sys2Proof/Laws/Ops.lean ====
section
/-! SUPPORT. What each operation, each host access and each step can do, said once: a later proof cites these and does
not unfold the operation. -/

namespace Sys2Proof.Machine

/-! ### CRC16, LLDEC, MFR -/

/-- Everything CRC16 can do (rule R94): `RESULT = 0` and an `UNEXPECTED_STATE` cause, or the checksum of a legal range. -/
theorem runCrc16_cases (b : Buffer) (s : State) :
    (∃ f, runCrc16 cvs b s = raiseError .unexpectedState f { s with result := 0 } ∧
        causeKind f.cause = .unexpectedState) ∨
      s.arg0.toNat ≤ s.arg1.toNat ∧ s.arg1.toNat ≤ bufLen s b ∧
        runCrc16 cvs b s =
          finish { s with result := (crc16 cvs (bufRange s b s.arg0.toNat s.arg1.toNat)).setWidth 32 } := by
  have hr : (∃ f, crc16Range cvs b s = raiseError .unexpectedState f { s with result := 0 } ∧
        causeKind f.cause = .unexpectedState) ∨
      s.arg0.toNat ≤ s.arg1.toNat ∧ s.arg1.toNat ≤ bufLen s b ∧
        crc16Range cvs b s =
          finish { s with result := (crc16 cvs (bufRange s b s.arg0.toNat s.arg1.toNat)).setWidth 32 } := by
    unfold crc16Range
    split
    · exact .inl ⟨_, rfl, rfl⟩
    · exact .inr ⟨by omega, by omega, rfl⟩
  cases b with
  | ibuf =>
    simp only [runCrc16]
    split
    · exact .inl ⟨_, rfl, rfl⟩
    · exact hr
  | obuf =>
    simp only [runCrc16]
    split
    · exact hr
    · exact .inl ⟨_, rfl, rfl⟩

/-- The window length of the instance (rule R140). -/
theorem windowLen_cvs (k : Kind) : windowLen cvs k = if k = .wired then 6 else 10 := by cases k <;> rfl

/-- Everything LLDEC can do (rule R140): no frame, a window that passes `OLEN`, or a decoded link layer. -/
theorem runLldec_cases (s : State) :
    s.ovalid = false ∧ runLldec cvs s = raiseError .unexpectedState ⟨.noFrame, 0, 0, 0⟩ (lldecStart s) ∨
      s.ovalid = true ∧ s.olen.toNat < s.cursor.toNat + windowLen cvs s.kind ∧
        runLldec cvs s = raiseError .crcError
          ⟨.shortBuffer, 0, s.cursor.toNat + windowLen cvs s.kind, s.olen.toNat⟩ (lldecStart s) ∨
      s.ovalid = true ∧ s.cursor.toNat + windowLen cvs s.kind ≤ s.olen.toNat ∧
        runLldec cvs s = finish { lldecStart s with
          ll := decodeWindow s.kind (bufRange s .obuf s.cursor.toNat (s.cursor.toNat + windowLen cvs s.kind))
          llvalid := true, cursor := BitVec.ofNat 16 (s.cursor.toNat + windowLen cvs s.kind) } := by
  rcases Bool.eq_false_or_eq_true s.ovalid with h | h
  · refine .inr ?_
    by_cases hl : s.cursor.toNat + windowLen cvs s.kind > s.olen.toNat
    · exact .inl ⟨h, hl, by
        rw [runLldec, lldecBody, if_neg (by simp [h])]; exact if_pos hl⟩
    · exact .inr ⟨h, by omega, by
        rw [runLldec, lldecBody, if_neg (by simp [h])]; exact if_neg hl⟩
  · exact .inl ⟨h, by rw [runLldec, lldecBody, if_pos (by simpa using h)]⟩

/-- Every operation answers a next state. -/
theorem exec_next (i : Instr) (s : State) : ∃ t, exec i s = .next t := by
  cases i <;> exact ⟨_, rfl⟩

theorem exec_strip (s : State) : exec .strip s = .next (runStrip cvs s) := rfl
theorem exec_lldec (s : State) : exec .lldec s = .next (runLldec cvs s) := rfl
theorem exec_crc16 (b : Buffer) (s : State) : exec (.crc16 b) s = .next (runCrc16 cvs b s) := rfl
theorem exec_mfr (s : State) : exec .mfr s = .next (runMfr s) := rfl

/-! ### Host accesses -/

theorem wordAligned_iff (offset size : Nat) : Access.wordAligned offset size = true ↔ size = 4 ∧ offset % 4 = 0 := by
  simp [Access.wordAligned]

theorem wordAligned_mul (idx : Nat) : Access.wordAligned (4 * idx) 4 = true := by simp [Access.wordAligned]

/-- The accepted write of a legal command byte leaves its operation running (rule R60). -/
theorem writeCmd_ok {b : Byte} {i : Instr} (s : State) (h : decode b = .ok i) : writeCmd b s = acceptCmd b s := by
  simp only [writeCmd, h]

/-- The accepted write of a reserved command byte ends at once (rule R75). -/
theorem writeCmd_error {b : Byte} {e : DecodeError} (s : State) (h : decode b = .error e) :
    writeCmd b s = badCommand (acceptCmd b s) := by simp only [writeCmd, h]

/-- Everything the accepted write of `CMD` can do (rules R60 and R75). -/
theorem writeCmd_cases (b : Byte) (s : State) :
    (∃ i, decode b = .ok i) ∧ writeCmd b s = acceptCmd b s ∨
      (∃ e, decode b = .error e) ∧ writeCmd b s = badCommand (acceptCmd b s) := by
  cases h : decode b with
  | ok i => exact .inl ⟨⟨i, rfl⟩, writeCmd_ok s h⟩
  | error e => exact .inr ⟨⟨e, rfl⟩, writeCmd_error s h⟩

/-- Everything the write of a register can do while the block is idle (rules R11, R12, R17, R19). -/
theorem writeReg_cases (r : Reg) (v : Word) (s : State) :
    writeReg r v s = writeCmd (v.setWidth 8) s ∧ r = .cmd ∨ writeReg r v s = { s with hint := v.setWidth 2 } ∧ r = .hint ∨
      writeReg r v s = { s with ilen := v.setWidth 16 } ∧ r = .ilen ∨
      writeReg r v s = { s with arg0 := v.setWidth 16 } ∧ r = .arg0 ∨
      writeReg r v s = { s with arg1 := v.setWidth 16 } ∧ r = .arg1 ∨
      writeReg r v s = { s with cursor := v.setWidth 16 } ∧ r = .cursor ∨
      writeReg r v s = s ∧ r ∉ [Reg.cmd, .hint, .ilen, .arg0, .arg1, .cursor] := by
  cases r <;> simp [writeReg]

/-! The fields that no register write changes. -/

@[simp] theorem writeReg_ovalid (r : Reg) (v : Word) (s : State) : (writeReg r v s).ovalid = s.ovalid := by
  cases r <;> simp [writeReg]
@[simp] theorem writeReg_llvalid (r : Reg) (v : Word) (s : State) : (writeReg r v s).llvalid = s.llvalid := by
  cases r <;> simp [writeReg]
@[simp] theorem writeReg_kind (r : Reg) (v : Word) (s : State) : (writeReg r v s).kind = s.kind := by
  cases r <;> simp [writeReg]
@[simp] theorem writeReg_olen (r : Reg) (v : Word) (s : State) : (writeReg r v s).olen = s.olen := by
  cases r <;> simp [writeReg]
@[simp] theorem writeReg_result (r : Reg) (v : Word) (s : State) : (writeReg r v s).result = s.result := by
  cases r <;> simp [writeReg]
@[simp] theorem writeReg_ll (r : Reg) (v : Word) (s : State) : (writeReg r v s).ll = s.ll := by
  cases r <;> simp [writeReg]
@[simp] theorem writeReg_ibuf (r : Reg) (v : Word) (s : State) : (writeReg r v s).ibuf = s.ibuf := by
  cases r <;> simp [writeReg]
@[simp] theorem writeReg_obuf (r : Reg) (v : Word) (s : State) : (writeReg r v s).obuf = s.obuf := by
  cases r <;> simp [writeReg]
@[simp] theorem writeReg_ibufGen (r : Reg) (v : Word) (s : State) : (writeReg r v s).ibufGen = s.ibufGen := by
  cases r <;> simp [writeReg]
@[simp] theorem writeReg_obufGen (r : Reg) (v : Word) (s : State) : (writeReg r v s).obufGen = s.obufGen := by
  cases r <;> simp [writeReg]
@[simp] theorem writeReg_busyReads (r : Reg) (v : Word) (s : State) : (writeReg r v s).busyReads = s.busyReads := by
  cases r <;> simp [writeReg]
@[simp] theorem writeReg_readData (r : Reg) (v : Word) (s : State) : (writeReg r v s).readData = s.readData := by
  cases r <;> simp [writeReg]
@[simp] theorem writeReg_script (r : Reg) (v : Word) (s : State) : (writeReg r v s).script = s.script := by
  cases r <;> simp [writeReg]

/-- A register found at an index has that index. -/
theorem regAt_some {idx : Nat} {r : Reg} (h : regAt idx = some r) : r.index = idx := by
  have := List.find?_some h
  simpa using this

/-- Every register is found at its index (rule R16). -/
theorem regAt_index (r : Reg) : regAt r.index = some r := by cases r <;> rfl

/-- The reserved indices hold no register (rule R14). -/
theorem regAt_reserved {idx : Nat} (h : idx = 14 ∨ idx = 15 ∨ 28 ≤ idx) : regAt idx = none := by
  cases hr : regAt idx with
  | none => rfl
  | some r =>
    have hi := regAt_some hr
    cases r <;> simp only [Reg.index] at hi <;> omega

/-- Everything a host access that is answered can do: return data, be ignored, or write a register or an `IBUF` byte. -/
theorem hostAccess_cases {p : Params} {a : Access} {s t : State} (h : hostAccess p a s = .next t) :
    (∃ d n, t = { s with readData := d, busyReads := n }) ∨ t = s ∨
      s.busy = false ∧ ((∃ r v offset, a = .writeReg offset 4 v ∧ offset % 4 = 0 ∧ regAt (offset / 4) = some r ∧
          t = writeReg r v s) ∨
        ∃ i v, a = .writeBuf .ibuf i v ∧ i < p.ibufCap ∧ t = { s with ibuf := setCell s.ibuf i v }) := by
  have hread (i b : Word) : ∃ d n, hostRead i b s = { s with readData := d, busyReads := n } := by
    unfold hostRead; split
    · exact ⟨_, _, rfl⟩
    · exact ⟨_, _, rfl⟩
  cases a with
  | readReg offset size =>
    simp only [hostAccess] at h
    split at h <;> cases h
    exact .inl (hread _ _)
  | readBuf b i =>
    simp only [hostAccess] at h
    split at h <;> cases h
    exact .inl (hread _ _)
  | writeReg offset size v =>
    simp only [hostAccess] at h
    split at h <;> cases h
    rename_i ha
    obtain ⟨rfl, hm⟩ := (wordAligned_iff _ _).1 ha
    refine .inr ?_
    unfold hostWrite
    split
    · exact .inl rfl
    · rename_i hb
      unfold writeRegAt
      cases hr : regAt (offset / 4) with
      | none => exact .inl rfl
      | some r => exact .inr ⟨by simpa using hb, .inl ⟨r, v, offset, rfl, hm, hr, rfl⟩⟩
  | writeBuf b i v =>
    simp only [hostAccess] at h
    split at h <;> cases h
    rename_i hi
    refine .inr ?_
    unfold hostWrite
    split
    · exact .inl rfl
    · rename_i hb
      cases b with
      | obuf => exact .inl rfl
      | ibuf => exact .inr ⟨by simpa using hb, .inr ⟨i, v, rfl, hi, rfl⟩⟩

/-- A well-formed access is answered. -/
theorem hostAccess_next {p : Params} {a : Access} (s : State) (h : a.wellFormed p = true) :
    ∃ t, hostAccess p a s = .next t := by
  cases a <;> simp only [Access.wellFormed, decide_eq_true_eq] at h <;> exact ⟨_, if_pos h⟩

/-! ### The step -/

theorem step_nil {s : State} (h : s.script = []) : step s = blockTurn s := by simp only [step, advance, h]

theorem step_cons {s : State} {x : Input} {rest : List Input} (h : s.script = x :: rest) :
    step s = takeInput cvs x { s with script := rest } := by simp only [step, advance, h]

/-- A running operation whose byte decodes is that operation's meaning. -/
theorem runOperation_ok {s : State} {i : Instr} (h : decode s.cmd = .ok i) : runOperation s = exec i s := by
  simp only [runOperation, h]

theorem runOperation_error {s : State} {e : DecodeError} (h : decode s.cmd = .error e) :
    runOperation s = .next (badCommand s) := by simp only [runOperation, h]

theorem blockTurn_busy {s : State} (h : s.busy = true) : blockTurn s = runOperation s := by
  simp only [blockTurn, h, if_true]

theorem blockTurn_idle {s : State} (h : s.busy = false) : blockTurn s = .next s := by
  simp [blockTurn, h]

/-- Everything the block's turn can do. -/
theorem blockTurn_cases {s t : State} (h : blockTurn s = .next t) :
    s.busy = false ∧ t = s ∨ s.busy = true ∧
      ((∃ i, decode s.cmd = .ok i ∧ exec i s = .next t) ∨ (∃ e, decode s.cmd = .error e) ∧ t = badCommand s) := by
  rcases Bool.eq_false_or_eq_true s.busy with hb | hb
  · rw [blockTurn_busy hb] at h
    refine .inr ⟨hb, ?_⟩
    cases hd : decode s.cmd with
    | ok i => rw [runOperation_ok hd] at h; exact .inl ⟨i, rfl, h⟩
    | error e => rw [runOperation_error hd] at h; cases h; exact .inr ⟨⟨e, rfl⟩, rfl⟩
  · rw [blockTurn_idle hb] at h; cases h
    exact .inl ⟨hb, rfl⟩

/-- The block's turn is always answered. -/
theorem blockTurn_next (s : State) : ∃ t, blockTurn s = .next t := by
  rcases Bool.eq_false_or_eq_true s.busy with hb | hb
  · rw [blockTurn_busy hb]
    cases hd : decode s.cmd with
    | ok i => rw [runOperation_ok hd]; exact exec_next i s
    | error e => exact ⟨_, runOperation_error hd⟩
  · exact ⟨s, blockTurn_idle hb⟩

/-- Everything a step can do: the block's turn (given to it, or no input to come), a host access, or reset. -/
theorem step_cases {s t : State} (h : step s = .next t) :
    s.script = [] ∧ blockTurn s = .next t ∨
      ∃ rest, s.script = .block :: rest ∧ blockTurn { s with script := rest } = .next t ∨
        (∃ a, s.script = .host a :: rest ∧ hostAccess cvs a { s with script := rest } = .next t) ∨
        s.script = .reset :: rest ∧ t = resetInput { s with script := rest } := by
  cases hs : s.script with
  | nil => exact .inl ⟨rfl, by rw [← step_nil hs]; exact h⟩
  | cons x rest =>
    rw [step_cons hs] at h
    refine .inr ⟨rest, ?_⟩
    cases x with
    | block => exact .inl ⟨rfl, h⟩
    | host a => exact .inr (.inl ⟨a, rfl, h⟩)
    | reset => cases h; exact .inr (.inr ⟨rfl, rfl⟩)

end Sys2Proof.Machine
end

