-- ==== Sys2Proof/Laws/PerInstr.lean ====
section
/-! SUPPORT. What holds of every instruction as syntax, one lemma per constructor: its command byte fits its row of the
opcode table, with the reserved field zero. -/

namespace Sys2Proof.Laws.CommandByte

/-- The encoding of an instruction matches its row of rule R61's table, and its field `rsv` is 0. -/
def Statement (i : Instr) : Prop :=
  encode i &&& tableMask i = tableMatch i ∧ cmdRsv (encode i) = 0 ∧ cmdOp (encode i) = opOf i ∧
    cmdSel (encode i) = selOf i

theorem strip : Statement .strip := by unfold Statement; decide

theorem lldec : Statement .lldec := by unfold Statement; decide

theorem crc16 (b : Buffer) : Statement (.crc16 b) := by unfold Statement; cases b <;> decide

theorem mfr : Statement .mfr := by unfold Statement; decide

end Sys2Proof.Laws.CommandByte
end

