-- ==== Sys2Proof/Tests/Slice0.lean ====
section
/-! SUPPORT. Tests on values of the spec's worked examples (95_test_vectors.md, named V<n> there), the smoke tests of
WellFormed, and for every statement with hypotheses a state that meets them, clause by clause. -/

namespace Sys2Proof.Tests

open Sys2Proof.Machine Sys2Proof.Reference

/-! ### Small states -/

/-- A started STRIP with `frame` in `IBUF` and `hint` in `HINT`. -/
def holding (frame : List Byte) (hint : BitVec 2) : State :=
  { State.reset with
    cmd := 0x01, busy := true, hint := hint, ilen := BitVec.ofNat 16 frame.length, ibuf := cellsFrom 0 frame }

/-- A started LLDEC on the stripped frame `out` of kind `kind`. -/
def framed (kind : Kind) (out : List Byte) (cursor : Half) : State :=
  { State.reset with
    cmd := 0x02, busy := true, ovalid := true, kind := kind, olen := BitVec.ofNat 16 out.length, cursor := cursor,
    obuf := cellsFrom 0 out }

/-- A started CRC16 over the range of `ARG0` and `ARG1`. -/
def ranged (s : State) (lo hi : Half) : State := { s with arg0 := lo, arg1 := hi }

/-- An idle block with one host access to come. -/
def asked (a : Access) : State := { State.reset with script := [.host a] }

/-- A running CRC16 with inputs to come. -/
def running (xs : List Input) : State := { State.reset with cmd := 0x03, busy := true, script := xs }

/-- What a next state shows. -/
def shows {α : Type} (f : State → α) (o : Host.Outcome State Fault Refusal) : Option α :=
  match o with
  | .next t => some (f t)
  | .fault _ => none
  | .refused _ => none

/-- The status byte and the bytes `OBUF[0:OLEN)`. -/
def output (s : State) : Byte × List Byte := (statusByte s, bufRange s .obuf 0 s.olen.toNat)

/-- The error registers, in the order of the spec's error tuples. -/
def errors (s : State) : BitVec 3 × BitVec 4 × Byte × Half × Half :=
  (errKindCode s.errKind, causeCode s.errCause, s.errBlock, s.errExp, s.errAct)

/-- M5, the wireless telegram of the test vectors, without CRCs. -/
def m5 : List Byte :=
  [0x2E, 0x44, 0x93, 0x15, 0x78, 0x56, 0x34, 0x12, 0x33, 0x03, 0x7A, 0x2A, 0x00, 0x20, 0x25, 0x59] ++
  [0x23, 0xC9, 0x5A, 0xAA, 0x26, 0xD1, 0xB2, 0xE7, 0x49, 0x3B, 0x01, 0x3E, 0xC4, 0xA6, 0xF6, 0xD3] ++
  [0x52, 0x9B, 0x52, 0x0E, 0xDF, 0xF0, 0xEA, 0x6D, 0xEF, 0xC9, 0x9D, 0x6D, 0x69, 0xEB, 0xF3]

/-- M5A, the same telegram as a Type A frame. -/
def m5a : List Byte :=
  [0x2E, 0x44, 0x93, 0x15, 0x78, 0x56, 0x34, 0x12, 0x33, 0x03, 0x33, 0x63] ++
  [0x7A, 0x2A, 0x00, 0x20, 0x25, 0x59, 0x23, 0xC9, 0x5A, 0xAA, 0x26, 0xD1, 0xB2, 0xE7, 0x49, 0x3B, 0xC2, 0xAD] ++
  [0x01, 0x3E, 0xC4, 0xA6, 0xF6, 0xD3, 0x52, 0x9B, 0x52, 0x0E, 0xDF, 0xF0, 0xEA, 0x6D, 0xEF, 0xC9, 0x55, 0xB2] ++
  [0x9D, 0x6D, 0x69, 0xEB, 0xF3, 0xEC, 0x8A]

/-- H of V29: the nine bytes after the L-field. -/
def nineBytes : List Byte := [0x44, 0x93, 0x15, 0x78, 0x56, 0x34, 0x12, 0x33, 0x03]

/-- V30: a small Type B frame. -/
def v30 : List Byte :=
  [0x0F, 0x44, 0x93, 0x15, 0x78, 0x56, 0x34, 0x12, 0x33, 0x03, 0x78, 0x01, 0x02, 0x03, 0x85, 0x31]

/-- V50: a wired frame. -/
def v50 : List Byte := [0x68, 0x03, 0x03, 0x68, 0x08, 0x05, 0x72, 0x7F, 0x16]

/-- p(n) of V33 to V36. -/
def pattern (n : Nat) : List Byte := (List.range n).map fun i => BitVec.ofNat 8 (5 * i + 3)

/-! ### Decoding: the command byte written out from rule R61's fields, `rsv` `b` `OP` -/

theorem test_decode_strip : decode 0b000_0_0001 = .ok .strip := by decide
theorem test_decode_lldec : decode 0b000_0_0010 = .ok .lldec := by decide
theorem test_decode_crc16_ibuf : decode 0b000_0_0011 = .ok (.crc16 .ibuf) := by decide
theorem test_decode_crc16_obuf : decode 0b000_1_0011 = .ok (.crc16 .obuf) := by decide
theorem test_decode_mfr : decode 0b000_0_0100 = .ok .mfr := by decide
theorem test_decode_reserved : decode 0b000_0_0000 = .error (.reservedOp 0) ∧ decode 0b000_0_0101 = .error (.reservedOp 5) ∧
    decode 0b000_1_0001 = .error (.strayBufferSelect 1) ∧ decode 0b001_0_0001 = .error (.reservedBits 1) := by decide
theorem test_table_word : decodeTableWord 8 0x13 = some (.crc16 .obuf) ∧ decodeTableWord 8 0x14 = none := by decide

/-! ### WellFormed: each check refuses an ill-formed term -/

theorem test_wf_register_size : (Access.readReg 4 2).wellFormed cvs = false := by decide
theorem test_wf_register_alignment : (Access.writeReg 6 4 0).wellFormed cvs = false := by decide
theorem test_wf_register_aligned : (Access.writeReg 8 4 0).wellFormed cvs = true := by decide
theorem test_wf_buffer_read : (Access.readBuf .obuf 512).wellFormed cvs = false := by decide
theorem test_wf_buffer_write : (Access.writeBuf .ibuf 512 0).wellFormed cvs = false := by decide
theorem test_wf_buffer_inside : (Access.writeBuf .ibuf 511 0).wellFormed cvs = true := by decide
theorem test_wf_input : (Input.host (.readReg 0 8)).wellFormed cvs = false := by decide
theorem test_wf_instr : Instr.wellFormed (.crc16 .obuf) = true := by decide

/-! ### One step of each operation -/

/-- V21. -/
theorem test_strip_type_a : shows output (exec .strip (holding m5a 1)) = some (0x4A, m5) := by decide +kernel

/-- V24: blocks 0 and 1 pass and block 2 is reported. -/
theorem test_strip_reports_block_two : shows errors (exec .strip (holding (m5a.set 30 0x00) 1)) =
    some (1, 5, 2, 0x655E, 0x55B2) := by decide +kernel

/-- V42: the last legal window of M5. -/
theorem test_lldec_last_window : shows (fun t => (t.cursor, t.ll.address, t.ll.mfrCode, statusByte t))
    (exec .lldec (framed .wirelessNoCrc m5 37)) = some (47, 0x696D9DC9, 0x4D5B7B, 0x9A) := by decide +kernel

/-- V42: the bound test does not wrap, the reported value does. -/
theorem test_lldec_bound : shows (fun t => (errors t, t.cursor)) (exec .lldec (framed .wirelessNoCrc m5 65535)) =
    some ((1, 1, 0, 0x0009, 0x002F), 65535) := by decide +kernel

/-- V13. -/
theorem test_crc16_obuf : shows (fun t => (t.result, statusByte t))
    (exec (.crc16 .obuf) (ranged (framed .wirelessA m5 0) 10 26)) = some (0x0000C2AD, 0x4A) := by decide +kernel

/-- V15. -/
theorem test_crc16_bad_range : shows (fun t => (errors t, t.result))
    (exec (.crc16 .ibuf) { ranged (holding (m5a.take 12) 0) 5 4 with result := 7 }) =
    some ((5, 11, 0, 12, 4), 0) := by decide +kernel

/-- V47: "ELS", and the first code above 95. -/
theorem test_mfr_els : shows State.result (exec .mfr { State.reset with arg0 := 0x1593 }) = some 0x00534C45 := by
  decide +kernel
theorem test_mfr_top : shows State.result (exec .mfr { State.reset with arg0 := 0xFFFF }) = some 0x005F5F7F := by
  decide +kernel

/-- P4, lines 10 and 11: a reserved byte ends in the step of its write, `OVALID` and `KIND` kept. -/
theorem test_reserved_ends_at_once : shows (fun t => (statusByte t, errors t))
    (step { framed .wirelessB (v30.take 14) 0 with busy := false, script := [.host (.writeReg 0 4 0x09)] }) =
    some (0x6E, (5, 8, 0, 0, 0x0009)) := by decide +kernel

/-- Rule R44: STATUS read while an LLDEC runs after V40: the state before the `CMD` write, with `BUSY = 1`. -/
theorem test_status_while_busy : shows State.readData
    (step { framed .wirelessA m5 0 with llvalid := true, script := [.host (.readReg 4 4)] }) = some 0x59 := by
  decide +kernel

/-- The first step after reset runs the placed command. -/
theorem test_first_step : shows State.result (step (State.reset.withFetchWord 8 0x04)) = some 0x00404040 := by
  decide +kernel

/-! ### Witnesses: encoding and the step -/

theorem witness_CommandBytesDecode : (0x05 : Byte) ∉ ([0x01, 0x02, 0x03, 0x13, 0x04] : List Byte) ∧
    (0xFF : Byte) ∉ ([0x01, 0x02, 0x03, 0x13, 0x04] : List Byte) ∧ decode 0x13 = .ok (.crc16 .obuf) := by decide

theorem witness_DecodeEncodeAgree : Instr.wellFormed (.crc16 .obuf) = true ∧ (0x13 : Byte) = encode (.crc16 .obuf) := by
  decide

/-- V60 and V61's neighbours: the smallest reserved byte, and a legal operation with a stray bit 4. -/
theorem witness_ReservedCommandRunsNothing : State.reset.busy = false ∧
    (0xFFFFFF00 : Word).setWidth 8 ∉ ([0x01, 0x02, 0x03, 0x13, 0x04] : List Byte) ∧
    (0x14 : Word).setWidth 8 ∉ ([0x01, 0x02, 0x03, 0x13, 0x04] : List Byte) ∧
    (asked (.writeReg 0 4 0x14)).script = .host (.writeReg 0 4 0x14) :: [] := by decide

theorem witness_StepRunsDecodedInstruction : Instr.wellFormed (.crc16 .ibuf) = true ∧ (running []).busy = true ∧
    decode (running []).cmd = .ok (.crc16 .ibuf) ∧ (running []).script = [] ∧ (running [.block]).script = .block :: [] := by
  decide

theorem witness_AcceptedCommandStartsOperation : State.reset.busy = false ∧
    decode ((0xABCD1113 : Word).setWidth 8) = .ok (.crc16 .obuf) ∧
    ({ State.reset with script := [.host (.writeReg 0 4 0xABCD1113), .block] } : State).script =
      .host (.writeReg 0 4 0xABCD1113) :: .block :: [] := by decide

theorem witness_WritesWhileBusyAreIgnored : (running [.host (.writeReg (4 * 0) 4 1)]).busy = true ∧
    (running [.host (.writeReg (4 * 0) 4 1)]).script = .host (.writeReg (4 * 0) 4 1) :: [] ∧ 511 < 512 ∧
    (running [.host (.writeBuf .ibuf 511 1)]).script = .host (.writeBuf .ibuf 511 1) :: [] := by decide

theorem witness_ReadOnlyWritesAreIgnored : 1 ∉ [0, 2, 3, 4, 5, 6] ∧ 7 ∉ [0, 2, 3, 4, 5, 6] ∧
    (asked (.writeReg (4 * 7) 4 1)).script = .host (.writeReg (4 * 7) 4 1) :: [] ∧ 511 < 512 ∧
    (asked (.writeBuf .obuf 511 1)).script = .host (.writeBuf .obuf 511 1) :: [] := by decide

theorem witness_OperandRegisters_writes : State.reset.busy = false ∧
    (asked (.writeReg 8 4 7)).script = .host (.writeReg 8 4 7) :: [] ∧
    (asked (.writeReg 12 4 513)).script = .host (.writeReg 12 4 513) :: [] ∧
    (asked (.writeReg 16 4 1)).script = .host (.writeReg 16 4 1) :: [] ∧
    (asked (.writeReg 20 4 1)).script = .host (.writeReg 20 4 1) :: [] := by decide

theorem witness_OperandRegisters_busy : (running [.host (.writeReg (4 * 5) 4 1)]).busy = true ∧ 2 ∈ [2, 3, 4, 5] ∧
    5 ∈ [2, 3, 4, 5] ∧ (running [.host (.writeReg (4 * 5) 4 1)]).script = .host (.writeReg (4 * 5) 4 1) :: [] := by decide

theorem witness_OperandRegisters_badLen : ({ State.reset with ilen := 513 } : State).ilen.toNat > 512 ∧
    ∃ t, exec .mfr State.reset = .next t := ⟨by decide, _, rfl⟩

theorem witness_RegistersReadAtTheirIndex : State.reset.busy = false ∧ (14 = 14 ∨ 14 = 15 ∨ 28 ≤ 14) ∧
    (28 = 14 ∨ 28 = 15 ∨ 28 ≤ 28) ∧ (asked (.readReg (4 * 27) 4)).script = .host (.readReg (4 * 27) 4) :: [] ∧
    (asked (.readReg (4 * 28) 4)).script = .host (.readReg (4 * 28) 4) :: [] ∧
    (asked (.writeReg (4 * 14) 4 1)).script = .host (.writeReg (4 * 14) 4 1) :: [] := by decide

/-- Every access of the statement is answered, idle and busy, and the command byte is legal. -/
theorem witness_HostAccessesHaveNoSideEffect : (∃ t, step (asked (.readReg 4 4)) = .next t) ∧
    (∃ t, step (asked (.readBuf .ibuf 511)) = .next t) ∧ (∃ t, step (asked (.writeBuf .ibuf 511 1)) = .next t) ∧
    (∃ t, step (asked (.writeReg 8 4 3)) = .next t) ∧ (∃ t, step (asked (.writeReg 12 4 3)) = .next t) ∧
    (∃ t, step (asked (.writeReg 16 4 3)) = .next t) ∧ (∃ t, step (asked (.writeReg 20 4 3)) = .next t) ∧
    (∃ t, step (asked (.writeReg 24 4 3)) = .next t) ∧ (∃ t, step (asked (.writeReg 0 4 3)) = .next t) ∧
    decode ((3 : Word).setWidth 8) = .ok (.crc16 .ibuf) ∧
    (∃ t, step (running [.host (.writeBuf .ibuf 511 1)]) = .next t) ∧
    ∃ t, step (running [.host (.writeReg 8 4 3)]) = .next t :=
  ⟨⟨_, rfl⟩, ⟨_, rfl⟩, ⟨_, rfl⟩, ⟨_, rfl⟩, ⟨_, rfl⟩, ⟨_, rfl⟩, ⟨_, rfl⟩, ⟨_, rfl⟩, ⟨_, rfl⟩, by decide, ⟨_, rfl⟩,
    _, rfl⟩

theorem witness_StatusIsReadableWhileBusy : started (running [.host (.readReg 4 4)]) ∧
    (running [.host (.readReg 4 4)]).script = .host (.readReg 4 4) :: [] ∧ State.reset.busy = false ∧
    decode ((0x02 : Word).setWidth 8) = .ok .lldec ∧
    ({ State.reset with script := [.host (.writeReg 0 4 0x02), .host (.readReg 4 4)] } : State).script =
      .host (.writeReg 0 4 0x02) :: .host (.readReg 4 4) :: [] := by decide

theorem witness_InputBufferHoldsWhatTheHostWrites : State.reset.busy = false ∧ 511 < 512 ∧
    (asked (.writeBuf .ibuf 511 1)).script = .host (.writeBuf .ibuf 511 1) :: [] ∧
    (asked (.readBuf .obuf 511)).script = .host (.readBuf .obuf 511) :: [] := by decide

theorem witness_UndefinedHostAccessesStop : ¬(2 = 4 ∧ 4 % 4 = 0) ∧ ¬(4 = 4 ∧ 6 % 4 = 0) ∧
    (asked (.readReg 4 2)).script = .host (.readReg 4 2) :: [] ∧
    (asked (.writeReg 6 4 0)).script = .host (.writeReg 6 4 0) :: [] ∧ 512 ≤ 512 ∧
    (asked (.readBuf .ibuf 512)).script = .host (.readBuf .ibuf 512) :: [] ∧
    (asked (.writeBuf .obuf 512 0)).script = .host (.writeBuf .obuf 512 0) :: [] := by decide

theorem witness_ResetInputClearsEverything : (running [.reset]).script = .reset :: [] := by decide

theorem witness_IdleBlockKeepsItsState : State.reset.busy = false ∧ State.reset.script = [] ∧
    ({ State.reset with script := [.block] } : State).script = .block :: [] := by decide

theorem witness_EveryOperationEnds : started (holding m5 0) := by decide

theorem witness_DefinedInputsNeverStop : ∀ x rest, (asked (.readBuf .ibuf 511)).script = x :: rest →
    x.wellFormed cvs = true := by
  intro x rest h; cases h; decide

theorem witness_BusyDoesNotLastForEver : (running [.host (.readReg 4 4), .host (.writeReg 0 4 1)]).busy = true ∧
    ∀ x ∈ (running [.host (.readReg 4 4), .host (.writeReg 0 4 1)]).script, x.wellFormed cvs = true := by decide

/-! ### Witnesses: CRC16 and MFR -/

theorem witness_ManufacturerCodes : 0x8000 ≤ (0x8000 : Half).toNat := by decide

/-- Every clause at the boundary of its range (V14, V15, V16, V17). -/
theorem witness_Crc16Operation : ({ State.reset with ilen := 513 } : State).ilen.toNat > 512 ∧
    State.reset.ovalid = false ∧
    ((ranged (holding (m5a.take 12) 0) 0 13).ilen.toNat ≤ 512 ∧ (ranged (holding (m5a.take 12) 0) 0 13).arg1.toNat > 12) ∧
    ((ranged (framed .wirelessA m5 0) 0 48).ovalid = true ∧ (ranged (framed .wirelessA m5 0) 0 48).arg1.toNat > 47) ∧
    ({ State.reset with ilen := 512, arg0 := 512, arg1 := 512 } : State).ilen.toNat ≤ 512 ∧
    (ranged (framed .wirelessA m5 0) 47 47).arg1.toNat ≤ (ranged (framed .wirelessA m5 0) 47 47).olen.toNat := by
  decide

theorem witness_Crc16DependsOnItsInputsOnly : started (ranged (framed .wirelessA m5 0) 10 26) ∧
    started (ranged (framed .wired m5 3) 10 26) ∧
    bufLen (ranged (framed .wirelessA m5 0) 10 26) .obuf = bufLen (ranged (framed .wired m5 3) 10 26) .obuf ∧
    ∀ i, bufByte (ranged (framed .wirelessA m5 0) 10 26) .obuf i = bufByte (ranged (framed .wired m5 3) 10 26) .obuf i :=
  ⟨by decide, by decide, rfl, fun _ => rfl⟩

theorem witness_Crc16AndMfrFrame : (∃ t, exec .mfr State.reset = .next t) ∧
    ∃ t, exec (.crc16 .obuf) (framed .wired (v50.take 7) 0) = .next t := ⟨⟨_, rfl⟩, _, rfl⟩

/-! ### Witnesses: LLDEC -/

/-- The three clauses for a wired and a wireless frame, at the boundary of the window (V42, V43, V44, V45). -/
theorem witness_LldecOutcomes : State.reset.ovalid = false ∧
    (framed .wirelessNoCrc m5 38).cursor.toNat + 10 > (framed .wirelessNoCrc m5 38).olen.toNat ∧
    (framed .wirelessNoCrc m5 37).cursor.toNat + 10 ≤ (framed .wirelessNoCrc m5 37).olen.toNat ∧
    (framed .wired (v50.take 7) 2).cursor.toNat + 6 > (framed .wired (v50.take 7) 2).olen.toNat ∧
    (framed .wired (v50.take 7) 1).cursor.toNat + 6 ≤ (framed .wired (v50.take 7) 1).olen.toNat := by decide

theorem witness_LldecWirelessFields : (framed .wirelessA m5 37).ovalid = true ∧ (framed .wirelessA m5 37).kind ≠ .wired ∧
    (framed .wirelessA m5 37).cursor.toNat + 10 ≤ (framed .wirelessA m5 37).olen.toNat := by decide

theorem witness_LldecWiredFields : (framed .wired (v50.take 7) 1).ovalid = true ∧
    (framed .wired (v50.take 7) 1).kind = .wired ∧
    (framed .wired (v50.take 7) 1).cursor.toNat + 6 ≤ (framed .wired (v50.take 7) 1).olen.toNat := by decide

theorem witness_LldecDependsOnItsInputsOnly : started (framed .wired (v50.take 7) 1) ∧
    started { framed .wired (v50.take 7) 1 with hint := 1, result := 5 } ∧
    ∀ i, bufByte (framed .wired (v50.take 7) 1) .obuf i =
      bufByte { framed .wired (v50.take 7) 1 with hint := 1, result := 5 } .obuf i :=
  ⟨by decide, by decide, fun _ => rfl⟩

theorem witness_LldecFrame : ∃ t, exec .lldec (framed .wired (v50.take 7) 0) = .next t := ⟨_, rfl⟩

/-! ### Witnesses: STRIP -/

/-- The input frame of `holding` is the frame it holds. -/
theorem inputFrame_holding (frame : List Byte) (hint : BitVec 2) (h : frame.length < 65536) :
    inputFrame (holding frame hint) = frame :=
  inputFrame_cellsFrom rfl (by simpa [holding] using h)

/-- What the clauses about a wired frame ask of the state. -/
abbrev wiredInput (s : State) (B : List Byte) : Prop := B = inputFrame s ∧ legalInput s ∧ wiredMarkers B

/-- What the clauses about a wireless frame ask of the state. -/
abbrev wirelessInput (s : State) (B : List Byte) : Prop :=
  B = inputFrame s ∧ legalInput s ∧ ¬wiredMarkers B ∧ 1 ≤ B.length

theorem wiredInput_holding {frame : List Byte} {hint : BitVec 2} (h : frame.length < 65536)
    (hl : legalInput (holding frame hint)) (hw : wiredMarkers frame) : wiredInput (holding frame hint) frame :=
  ⟨(inputFrame_holding frame hint h).symm, hl, hw⟩

theorem wirelessInput_holding {frame : List Byte} {hint : BitVec 2} (h : frame.length < 65536)
    (hl : legalInput (holding frame hint)) (hw : ¬wiredMarkers frame) (h1 : 1 ≤ frame.length) :
    wirelessInput (holding frame hint) frame :=
  ⟨(inputFrame_holding frame hint h).symm, hl, hw, h1⟩

theorem witness_StripPreconditions : ({ State.reset with ilen := 513 } : State).ilen.toNat > 512 ∧
    (({ State.reset with ilen := 512, hint := 3 } : State).ilen.toNat ≤ 512) ∧
    State.reset.ilen = 0 ∧ State.reset.hint ≠ 3 := by decide

/-- V51's cases and V50: copies, count, checksum, and a frame that passes. -/
theorem witness_StripWiredFrame_copies : wiredInput (holding [0x68, 1, 2, 0x68, 0x16] 0) [0x68, 1, 2, 0x68, 0x16] ∧
    byteAt [0x68, 1, 2, 0x68, 0x16] 1 ≠ byteAt [0x68, 1, 2, 0x68, 0x16] 2 :=
  ⟨wiredInput_holding (by decide) (by decide) (by decide), by decide⟩
theorem witness_StripWiredFrame_count : wiredInput (holding [0x68, 1, 1, 0x68, 0x16] 2) [0x68, 1, 1, 0x68, 0x16] ∧
    byteAt [0x68, 1, 1, 0x68, 0x16] 1 = byteAt [0x68, 1, 1, 0x68, 0x16] 2 ∧
    byteAt [0x68, 1, 1, 0x68, 0x16] 1 + 6 ≠ [0x68, 1, 1, 0x68, 0x16].length :=
  ⟨wiredInput_holding (by decide) (by decide) (by decide), by decide, by decide⟩
theorem witness_StripWiredFrame_checksum :
    wiredInput (holding [0x68, 0, 0, 0x68, 1, 0x16] 1) [0x68, 0, 0, 0x68, 1, 0x16] ∧
    byteAt [0x68, 0, 0, 0x68, 1, 0x16] 1 = byteAt [0x68, 0, 0, 0x68, 1, 0x16] 2 ∧
    byteAt [0x68, 0, 0, 0x68, 1, 0x16] 1 + 6 = [0x68, 0, 0, 0x68, 1, 0x16].length ∧
    (sum8 (range [0x68, 0, 0, 0x68, 1, 0x16] 4 4)).toNat ≠ byteAt [0x68, 0, 0, 0x68, 1, 0x16] 4 :=
  ⟨wiredInput_holding (by decide) (by decide) (by decide), by decide, by decide, by decide⟩
theorem witness_StripWiredFrame_passes : wiredInput (holding v50 2) v50 ∧ byteAt v50 1 = byteAt v50 2 ∧
    byteAt v50 1 + 6 = v50.length ∧ (sum8 (range v50 4 (v50.length - 2))).toNat = byteAt v50 (v50.length - 2) :=
  ⟨wiredInput_holding (by decide) (by decide) (by decide), by decide, by decide, by decide⟩

/-- V28: one byte short. -/
theorem witness_StripShortWireless : wirelessInput (holding (m5.take 46) 1) (m5.take 46) ∧
    (m5.take 46).length = byteAt (m5.take 46) 0 :=
  ⟨wirelessInput_holding (by decide) (by decide) (by decide) (by decide), by decide⟩

/-- V27, V28 and V50: each clause of hint FALSE. -/
theorem witness_StripHintFalse_commits : (holding m5 2).hint = 2 ∧ wirelessInput (holding m5 2) m5 ∧
    byteAt m5 0 + 1 = m5.length :=
  ⟨rfl, wirelessInput_holding (by decide) (by decide) (by decide) (by decide), by decide⟩
theorem witness_StripHintFalse_empty : (holding [] 2).hint = 2 ∧ (holding [] 2).ilen = 0 := by decide
theorem witness_StripHintFalse_short : (holding (m5.take 46) 2).hint = 2 ∧
    wirelessInput (holding (m5.take 46) 2) (m5.take 46) ∧ (m5.take 46).length < byteAt (m5.take 46) 0 + 1 :=
  ⟨rfl, wirelessInput_holding (by decide) (by decide) (by decide) (by decide), by decide⟩
theorem witness_StripHintFalse_wired : (holding v50 2).hint = 2 ∧ wiredInput (holding v50 2) v50 ∧
    ∃ t, exec .strip (holding v50 2) = .next t :=
  ⟨rfl, wiredInput_holding (by decide) (by decide) (by decide), _, rfl⟩
theorem witness_StripHintFalse_strict : ({ cvs with hintFalsePolicy := .strict } : Params).hintFalsePolicy = .strict := by
  decide

/-- The first block of V35's frame, and of a frame of exactly 128 bytes (V33). -/
def block1 (l : Byte) : List Byte := l :: pattern 125

/-- A block that `withCrc` built passes where it stands. -/
theorem withCrc_first (d rest : List Byte) (n : Nat) (hn : n = d.length) :
    crc16 cvs (range (withCrc d ++ rest) 0 n) = storedCrc cvs (withCrc d ++ rest) n := by
  have h1 := range_withCrc [] d rest
  have h2 := storedCrc_withCrc [] d rest
  simp only [List.nil_append, List.length_nil, Nat.zero_add] at h1 h2
  rw [hn, h1, h2]

/-- V32, V31, V33, V34 and V35: one frame for each clause of the Type B check, in order. -/
theorem witness_StripTypeB_short1 : (holding [0x01, 0x55] 1).hint = 1 ∧
    wirelessInput (holding [0x01, 0x55] 1) [0x01, 0x55] ∧ [0x01, 0x55].length = byteAt [0x01, 0x55] 0 + 1 ∧
    min [0x01, 0x55].length 128 < 3 :=
  ⟨rfl, wirelessInput_holding (by decide) (by decide) (by decide) (by decide), by decide, by decide⟩
theorem witness_StripTypeB_crc1 : wirelessInput (holding (v30.set 12 0x12) 1) (v30.set 12 0x12) ∧
    (v30.set 12 0x12).length = byteAt (v30.set 12 0x12) 0 + 1 ∧ min (v30.set 12 0x12).length 128 = 16 ∧
    crc16 cvs (range (v30.set 12 0x12) 0 14) ≠ storedCrc cvs (v30.set 12 0x12) 14 :=
  ⟨wirelessInput_holding (by decide) (by decide) (by decide) (by decide), by decide, by decide, by decide +kernel⟩
theorem witness_StripTypeB_one : wirelessInput (holding (withCrc (block1 0x7F) ++ []) 0) (withCrc (block1 0x7F) ++ []) ∧
    (withCrc (block1 0x7F) ++ []).length = byteAt (withCrc (block1 0x7F) ++ []) 0 + 1 ∧
    (withCrc (block1 0x7F) ++ []).length = 128 ∧
    crc16 cvs (range (withCrc (block1 0x7F) ++ []) 0 126) = storedCrc cvs (withCrc (block1 0x7F) ++ []) 126 :=
  ⟨wirelessInput_holding (by decide +kernel) (by decide +kernel) (by decide +kernel) (by decide +kernel),
    by decide +kernel, by decide +kernel, withCrc_first _ _ _ (by decide +kernel)⟩
theorem witness_StripTypeB_short2 :
    wirelessInput (holding (withCrc (block1 0x81) ++ [0xFF, 0xFF]) 1) (withCrc (block1 0x81) ++ [0xFF, 0xFF]) ∧
    (withCrc (block1 0x81) ++ [0xFF, 0xFF]).length = byteAt (withCrc (block1 0x81) ++ [0xFF, 0xFF]) 0 + 1 ∧
    (withCrc (block1 0x81) ++ [0xFF, 0xFF]).length = 130 ∧
    crc16 cvs (range (withCrc (block1 0x81) ++ [0xFF, 0xFF]) 0 126) =
      storedCrc cvs (withCrc (block1 0x81) ++ [0xFF, 0xFF]) 126 :=
  ⟨wirelessInput_holding (by decide +kernel) (by decide +kernel) (by decide +kernel) (by decide +kernel),
    by decide +kernel, by decide +kernel, withCrc_first _ _ _ (by decide +kernel)⟩
theorem witness_StripTypeB_crc2 : wirelessInput (holding (withCrc (block1 0x82) ++ [0x03, 0xB8, 0x51]) 1)
      (withCrc (block1 0x82) ++ [0x03, 0xB8, 0x51]) ∧
    (withCrc (block1 0x82) ++ [0x03, 0xB8, 0x51]).length = byteAt (withCrc (block1 0x82) ++ [0x03, 0xB8, 0x51]) 0 + 1 ∧
    (withCrc (block1 0x82) ++ [0x03, 0xB8, 0x51]).length = 131 ∧
    crc16 cvs (range (withCrc (block1 0x82) ++ [0x03, 0xB8, 0x51]) 0 126) =
      storedCrc cvs (withCrc (block1 0x82) ++ [0x03, 0xB8, 0x51]) 126 ∧
    crc16 cvs (range (withCrc (block1 0x82) ++ [0x03, 0xB8, 0x51]) 128 129) ≠
      storedCrc cvs (withCrc (block1 0x82) ++ [0x03, 0xB8, 0x51]) 129 :=
  ⟨wirelessInput_holding (by decide +kernel) (by decide +kernel) (by decide +kernel) (by decide +kernel),
    by decide +kernel, by decide +kernel, withCrc_first _ _ _ (by decide +kernel), by decide +kernel⟩
theorem witness_StripTypeB_two : wirelessInput (holding (withCrc (block1 0x82) ++ [0x03, 0xB8, 0x50]) 0)
      (withCrc (block1 0x82) ++ [0x03, 0xB8, 0x50]) ∧
    (withCrc (block1 0x82) ++ [0x03, 0xB8, 0x50]).length = byteAt (withCrc (block1 0x82) ++ [0x03, 0xB8, 0x50]) 0 + 1 ∧
    (withCrc (block1 0x82) ++ [0x03, 0xB8, 0x50]).length = 131 ∧
    crc16 cvs (range (withCrc (block1 0x82) ++ [0x03, 0xB8, 0x50]) 0 126) =
      storedCrc cvs (withCrc (block1 0x82) ++ [0x03, 0xB8, 0x50]) 126 ∧
    crc16 cvs (range (withCrc (block1 0x82) ++ [0x03, 0xB8, 0x50]) 128 129) =
      storedCrc cvs (withCrc (block1 0x82) ++ [0x03, 0xB8, 0x50]) 129 :=
  ⟨wirelessInput_holding (by decide +kernel) (by decide +kernel) (by decide +kernel) (by decide +kernel),
    by decide +kernel, by decide +kernel, withCrc_first _ _ _ (by decide +kernel), by decide +kernel⟩

/-- An L-field just too small for Type A (V4 and V29), `N > L + 1`. -/
theorem witness_StripTypeA_small : wirelessInput (holding ([0x08] ++ nineBytes) 1) ([0x08] ++ nineBytes) ∧
    byteAt ([0x08] ++ nineBytes) 0 = 8 ∧ 8 + 1 < ([0x08] ++ nineBytes).length :=
  ⟨wirelessInput_holding (by decide) (by decide) (by decide) (by decide), by decide, by decide⟩
/-- V29: one byte short of `T = 12`. -/
theorem witness_StripTypeA_short :
    wirelessInput (holding ([0x09] ++ nineBytes ++ [0x55]) 1) ([0x09] ++ nineBytes ++ [0x55]) ∧
    byteAt ([0x09] ++ nineBytes ++ [0x55]) 0 = 9 ∧ ([0x09] ++ nineBytes ++ [0x55]).length = 11 :=
  ⟨wirelessInput_holding (by decide) (by decide) (by decide) (by decide), by decide, by decide⟩
/-- V24: block 2 of M5A is the first to fail. -/
theorem witness_StripTypeA_crc : wirelessInput (holding (m5a.set 30 0x00) 1) (m5a.set 30 0x00) ∧
    byteAt (m5a.set 30 0x00) 0 = 46 ∧ (m5a.set 30 0x00).length = 55 ∧
    crc16 cvs (range (m5a.set 30 0x00) 0 10) = storedCrc cvs (m5a.set 30 0x00) 10 ∧
    crc16 cvs (range (m5a.set 30 0x00) 12 28) = storedCrc cvs (m5a.set 30 0x00) 28 ∧
    crc16 cvs (range (m5a.set 30 0x00) 30 46) ≠ storedCrc cvs (m5a.set 30 0x00) 46 :=
  ⟨wirelessInput_holding (by decide) (by decide) (by decide) (by decide), by decide, by decide, by decide +kernel,
    by decide +kernel, by decide +kernel⟩
/-- V29: `T = N = 12` and no data block. -/
theorem witness_StripTypeA_passes :
    wirelessInput (holding ([0x09] ++ nineBytes ++ [0x51, 0xC1]) 0) ([0x09] ++ nineBytes ++ [0x51, 0xC1]) ∧
    byteAt ([0x09] ++ nineBytes ++ [0x51, 0xC1]) 0 = 9 ∧ ([0x09] ++ nineBytes ++ [0x51, 0xC1]).length = 12 ∧
    crc16 cvs (range ([0x09] ++ nineBytes ++ [0x51, 0xC1]) 0 10) =
      storedCrc cvs ([0x09] ++ nineBytes ++ [0x51, 0xC1]) 10 :=
  ⟨wirelessInput_holding (by decide) (by decide) (by decide) (by decide), by decide, by decide, by decide +kernel⟩
/-- V22 carried on to the capacity: trailing data up to `ILEN = 512`. -/
theorem witness_StripTypeA_full :
    wirelessInput (holding (m5a ++ List.replicate 457 0xAA) 1) (m5a ++ List.replicate 457 0xAA) ∧
    (m5a ++ List.replicate 457 0xAA).length = 512 :=
  ⟨wirelessInput_holding (by decide +kernel) (by decide +kernel) (by decide +kernel) (by decide +kernel),
    by decide +kernel⟩

/-- V20 and V23: a failed check of each type under hint UNKNOWN. -/
theorem witness_StripFallback_typeB : (holding m5 0).hint = 0 ∧ wirelessInput (holding m5 0) m5 ∧
    m5.length = byteAt m5 0 + 1 ∧ checkTypeB cvs m5 = .fail ⟨.crcMismatch, 1, 0xF4A1, 0xEBF3⟩ :=
  ⟨rfl, wirelessInput_holding (by decide) (by decide) (by decide) (by decide), by decide, by decide +kernel⟩
theorem witness_StripFallback_typeA : (holding (m5a.set 30 0x00) 0).hint = 0 ∧
    wirelessInput (holding (m5a.set 30 0x00) 0) (m5a.set 30 0x00) ∧
    byteAt (m5a.set 30 0x00) 0 + 1 < (m5a.set 30 0x00).length ∧
    checkTypeA cvs (m5a.set 30 0x00) = .fail ⟨.crcMismatch, 2, 0x655E, 0x55B2⟩ :=
  ⟨rfl, wirelessInput_holding (by decide) (by decide) (by decide) (by decide), by decide, by decide +kernel⟩

/-- V26, V25, V30 and V21: each clause of hint TRUE. -/
theorem witness_StripHintTrueIsFatal_failB : (holding m5 1).hint = 1 ∧ wirelessInput (holding m5 1) m5 ∧
    m5.length = byteAt m5 0 + 1 ∧ checkTypeB cvs m5 = .fail ⟨.crcMismatch, 1, 0xF4A1, 0xEBF3⟩ :=
  ⟨rfl, wirelessInput_holding (by decide) (by decide) (by decide) (by decide), by decide, by decide +kernel⟩
theorem witness_StripHintTrueIsFatal_failA : wirelessInput (holding (m5a.take 54) 1) (m5a.take 54) ∧
    byteAt (m5a.take 54) 0 + 1 < (m5a.take 54).length ∧
    checkTypeA cvs (m5a.take 54) = .fail ⟨.shortBuffer, 0, 55, 54⟩ :=
  ⟨wirelessInput_holding (by decide) (by decide) (by decide) (by decide), by decide, by decide +kernel⟩
theorem witness_StripHintTrueIsFatal_okB : wirelessInput (holding v30 1) v30 ∧ v30.length = byteAt v30 0 + 1 ∧
    checkTypeB cvs v30 = .ok (v30.take 14) :=
  ⟨wirelessInput_holding (by decide) (by decide) (by decide) (by decide), by decide, by decide +kernel⟩
theorem witness_StripHintTrueIsFatal_okA : wirelessInput (holding m5a 1) m5a ∧ byteAt m5a 0 + 1 < m5a.length ∧
    checkTypeA cvs m5a = .ok m5 :=
  ⟨wirelessInput_holding (by decide) (by decide) (by decide) (by decide), by decide, by decide +kernel⟩

/-- A committed frame of each kind, for StripCopiesInputBytes and StripOutputByKind, clause by clause. -/
theorem witness_StripOutputByKind_wired : shows (fun t => (t.ovalid, t.kind)) (exec .strip (holding v50 0)) =
    some (true, .wired) := by decide +kernel
theorem witness_StripOutputByKind_typeA : shows (fun t => (t.ovalid, t.kind))
    (exec .strip (holding ([0x09] ++ nineBytes ++ [0x51, 0xC1]) 0)) = some (true, .wirelessA) := by decide +kernel
theorem witness_StripOutputByKind_typeB : shows (fun t => (t.ovalid, t.kind)) (exec .strip (holding v30 0)) =
    some (true, .wirelessB) := by decide +kernel
theorem witness_StripOutputByKind_copied : shows (fun t => (t.ovalid, t.kind)) (exec .strip (holding [0x00] 0)) =
    some (true, .wirelessNoCrc) := by decide +kernel
/-- V46: an LLDEC that succeeds after a Type B STRIP. -/
theorem witness_StripCopiesInputBytes_lldec : shows (fun t => shows State.llvalid (exec .lldec t))
    (exec .strip (holding v30 0)) = some (some true) := by decide +kernel

/-- A started STRIP that ends in error (V32 under TRUE), and one that does not (under UNKNOWN). -/
theorem witness_FailedStripLeavesNoFrame : started (holding [0x00] 1) ∧ started (holding [0x00] 0) ∧
    shows (fun t => (t.err, t.ovalid)) (exec .strip (holding [0x00] 1)) = some (true, false) ∧
    shows (fun t => (t.err, t.ovalid)) (exec .strip (holding [0x00] 0)) = some (false, true) := by decide +kernel

theorem witness_StripFrame : (∃ t, exec .strip (holding m5 1) = .next t) ∧
    shows (fun t => decide (t.olen.toNat ≤ 14)) (exec .strip (holding v30 1)) = some true :=
  ⟨⟨_, rfl⟩, by decide +kernel⟩

theorem witness_StripDependsOnItsInputsOnly : started (holding v30 1) ∧
    started { holding v30 1 with arg0 := 3, obuf := [(0, 9)], olen := 1 } ∧
    ∀ i, bufByte (holding v30 1) .ibuf i =
      bufByte { holding v30 1 with arg0 := 3, obuf := [(0, 9)], olen := 1 } .ibuf i :=
  ⟨by decide, by decide, fun _ => rfl⟩

/-- M5A is the frame rule R67 builds from M5's first ten bytes and the rest, with trailing data (V22). -/
theorem witness_TypeAFrameStripsToItsData :
    wirelessInput (holding (m5a ++ [0xAA, 0xBB, 0xCC]) 1) (m5a ++ [0xAA, 0xBB, 0xCC]) ∧
    m5a = frameA (m5.take 10) (m5.drop 10) ∧ (m5.take 10).length = 10 ∧ (m5.drop 10).length ≤ 246 ∧
    byteAt (m5.take 10) 0 = (m5.drop 10).length + 9 :=
  ⟨wirelessInput_holding (by decide) (by decide) (by decide) (by decide), by decide +kernel, by decide, by decide,
    by decide⟩

/-- V30 is a frame of one block; V36's shape, the largest, of two. -/
theorem witness_TypeBFrameStripsToItsData_one : wirelessInput (holding v30 0) v30 ∧ v30 = frameB (v30.take 14) [] ∧
    byteAt (v30.take 14) 0 + 1 = (frameB (v30.take 14) []).length :=
  ⟨wirelessInput_holding (by decide) (by decide) (by decide) (by decide), by decide +kernel, by decide⟩
theorem witness_TypeBFrameStripsToItsData_two :
    wirelessInput (holding (frameB (block1 0xFF) (pattern 126).reverse) 1) (frameB (block1 0xFF) (pattern 126).reverse) ∧
    (block1 0xFF).length = 126 ∧ (pattern 126).reverse.length = 126 ∧ (pattern 126).reverse ≠ [] ∧
    byteAt (block1 0xFF) 0 + 1 = (frameB (block1 0xFF) (pattern 126).reverse).length :=
  ⟨wirelessInput_holding (by decide +kernel) (by decide +kernel) (by decide +kernel) (by decide +kernel),
    by decide +kernel, by decide +kernel, by decide +kernel, by decide +kernel⟩

/-- V50 is the frame rule R65 builds around its user bytes. -/
theorem witness_WiredFrameStripsToItsData : wiredInput (holding v50 2) v50 ∧ v50 = frameWired [0x08, 0x05, 0x72] ∧
    (holding v50 2).hint ≠ 3 :=
  ⟨wiredInput_holding (by decide) (by decide) (by decide), by decide, by decide⟩

/-! ### Witnesses: whole-machine rules -/

theorem witness_OutputChangesOnlyByStripOrReset : (∃ t, step (running [.block]) = .next t) ∧
    (∀ rest, (running [.block]).script ≠ .reset :: rest) ∧ decode (running [.block]).cmd ≠ .ok .strip :=
  ⟨⟨_, rfl⟩, (fun rest h => by cases h), by decide⟩

theorem witness_InputBufferChangesOnlyByHostOrReset : (∃ t, step (asked (.writeBuf .ibuf 511 1)) = .next t) ∧
    ∀ rest, (asked (.writeBuf .ibuf 511 1)).script ≠ .reset :: rest := ⟨⟨_, rfl⟩, fun rest h => by cases h⟩

/-- A block idle after an error, asked for `STATUS`; a command; the reset input. -/
theorem witness_ErrorsStayUntilNextCommandOrReset :
    ({ asked (.readReg 4 4) with done := true, err := true, errKind := .crcError, errCause := .shortBuffer } : State).busy =
      false ∧ (∃ t, step (asked (.readReg 4 4)) = .next t) ∧
    (∀ rest, (asked (.readReg 4 4)).script ≠ .reset :: rest) ∧
    (∀ v rest, (asked (.readReg 4 4)).script ≠ .host (.writeReg 0 4 v) :: rest) ∧
    decode ((4 : Word).setWidth 8) = .ok .mfr ∧
    (asked (.writeReg 0 4 4)).script = .host (.writeReg 0 4 4) :: [] ∧ (running [.reset]).script = .reset :: [] :=
  ⟨by decide, ⟨_, rfl⟩, (fun rest h => by cases h), (fun v rest h => by cases h), by decide, by decide,
    by decide⟩

/-- LLDEC with and without an error, from a state of the buffers' form. -/
theorem witness_CursorMovesAsTheRuleSays : (framed .wired (v50.take 7) 1).err = false ∧
    shows (fun t => (t.err, t.cursor)) (exec .lldec (framed .wired (v50.take 7) 1)) = some (false, 7) ∧
    shows (fun t => (t.err, t.cursor)) (exec .lldec (framed .wired (v50.take 7) 2)) = some (true, 2) ∧
    (framed .wired (v50.take 7) 1).BufferInv :=
  ⟨by decide, by decide +kernel, by decide +kernel, by decide, by decide, by decide, by decide, by decide,
    by decide +kernel⟩

/-- A started LLDEC on a stripped frame meets both invariants. -/
theorem witness_StepKeepsStatusInv : (framed .wired (v50.take 7) 0).StatusInv ∧
    ∃ t, step (framed .wired (v50.take 7) 0) = .next t :=
  ⟨⟨by decide, fun _ => ⟨.lldec, rfl⟩, by decide, by decide, by decide, by decide, by decide, by decide, by decide,
    by decide⟩, _, rfl⟩

theorem witness_StepKeepsBufferInv : (framed .wired (v50.take 7) 0).BufferInv ∧
    ∃ t, step (framed .wired (v50.take 7) 0) = .next t :=
  ⟨⟨by decide, by decide, by decide, by decide, by decide, by decide +kernel⟩, _, rfl⟩

/-- A block idle after `BAD_RANGE`, asked for `ERRKIND` and for `ERRCAUSE`. -/
theorem witness_ErrorRegistersReadTheirCodes :
    ({ asked (.readReg 36 4) with errKind := .unexpectedState } : State).busy = false ∧
    ({ asked (.readReg 36 4) with errKind := .unexpectedState } : State).errKind = .unexpectedState ∧
    (asked (.readReg 36 4)).script = .host (.readReg 36 4) :: [] ∧
    ({ asked (.readReg 40 4) with errCause := .badRange } : State).errCause = .badRange ∧
    (asked (.readReg 40 4)).script = .host (.readReg 40 4) :: [] := by decide

end Sys2Proof.Tests
end

section
/-! PROOF. The status invariant (rules R12, R18, R22, R23, R25, R75, R161): the shared operations' part of it, then each
operation, each host access and the step. -/

namespace Sys2Proof.Machine

open Sys2Proof.Reference

/-! ### The four result relations, and the two ways an operation ends -/

/-- The part of `State.StatusInv` that an operation's end leaves as it is: the relations between `OVALID`, `KIND`,
`OLEN`, `LLVALID` and the link-layer registers (rules R12, R18, R25). -/
structure State.ResultInv (s : State) : Prop where
  ovalid_iff_kind : s.ovalid = true ↔ s.kind ≠ .none
  no_frame_no_len : s.ovalid = false → s.olen = 0
  no_ll_zero : s.llvalid = false → s.ll = LinkLayer.zero
  ll_has_frame : s.llvalid = true → s.ovalid = true

theorem State.StatusInv.resultInv {s : State} (h : s.StatusInv) : s.ResultInv := { h with }

/-- A running operation has neither ended nor reported an error yet (rules R18 and R60). -/
theorem State.StatusInv.started {s : State} (h : s.StatusInv) (hb : s.busy = true) : started s := by
  have hd := h.busy_not_done hb
  have he : s.err = false := by
    by_contra he
    simp [h.err_done (by simpa using he)] at hd
  obtain ⟨hc, hbl, hx, ha⟩ := h.no_err_no_detail he
  exact ⟨hb, hd, he, by simpa [hc, causeKind] using h.kind_of_cause, hc, hbl, hx, ha⟩

/-- The invariant speaks neither of the operand registers, `CURSOR`, `RESULT` and the buffers nor of the model's own
fields. -/
theorem State.StatusInv.frame {s : State} (h : s.StatusInv) (hint : BitVec 2) (ilen arg0 arg1 cursor : Half)
    (ibuf obuf : Memory) (ibufGen obufGen busyReads : Nat) (readData : Word) (script : List Input) :
    State.StatusInv { s with
      hint := hint, ilen := ilen, arg0 := arg0, arg1 := arg1, cursor := cursor, ibuf := ibuf, obuf := obuf,
      ibufGen := ibufGen, obufGen := obufGen, busyReads := busyReads, readData := readData, script := script } :=
  { h with }

/-- The end of an operation in error (rule R164). -/
theorem raiseError_statusInv {k : ErrKind} {f : Failure} {s : State} (h : s.ResultInv) (hk : k = causeKind f.cause)
    (hne : k ≠ .none) : (raiseError k f s).StatusInv :=
  { h with
    busy_not_done := by simp
    busy_legal := by simp
    err_done := by simp
    err_iff_kind := by simpa using hne
    kind_of_cause := hk
    no_err_no_detail := by simp }

/-- The end of an operation without error (rule R163). -/
theorem finish_statusInv {s : State} (h : s.ResultInv) (hs : started s) : (finish s).StatusInv := by
  obtain ⟨-, -, he, hk, hc, hb, hx, ha⟩ := hs
  exact { h with
    busy_not_done := by simp
    busy_legal := by simp
    err_done := by simp
    err_iff_kind := by simp [he, hk]
    kind_of_cause := by simp [hk, hc, causeKind]
    no_err_no_detail := fun _ => ⟨hc, hb, hx, ha⟩ }

/-! ### The operations -/

theorem stripStart_resultInv (s : State) : (stripStart s).ResultInv where
  ovalid_iff_kind := by simp
  no_frame_no_len := by simp
  no_ll_zero := by simp
  ll_has_frame := by simp

theorem lldecStart_resultInv {s : State} (h : s.ResultInv) : (lldecStart s).ResultInv :=
  { h with
    no_ll_zero := by simp
    ll_has_frame := by simp }

/-- The commit of a STRIP: a frame of a kind, no link layer decoded yet (rule R117). -/
theorem commit_stripStart_statusInv {out : List Byte} {k : Kind} {s : State} (hs : started s) (hk : k ≠ .none) :
    (commit out k (stripStart s)).StatusInv := by
  refine finish_statusInv { ovalid_iff_kind := ?_, no_frame_no_len := ?_, no_ll_zero := ?_, ll_has_frame := ?_ } hs
  · simpa using hk
  · simp
  · simp
  · simp

theorem runStrip_statusInv {s : State} (hs : started s) : (runStrip cvs s).StatusInv := by
  obtain ⟨k, f, he, hk, hne⟩ | ⟨out, k, he, -, -, -, hne, -⟩ := runStrip_cases s
  · rw [he]; exact raiseError_statusInv (stripStart_resultInv s) hk hne
  · rw [he]; exact commit_stripStart_statusInv hs hne

theorem runLldec_statusInv {s : State} (h : s.ResultInv) (hs : started s) : (runLldec cvs s).StatusInv := by
  have hl := lldecStart_resultInv h
  obtain ⟨-, he⟩ | ⟨-, -, he⟩ | ⟨hv, -, he⟩ := runLldec_cases s
  · rw [he]; exact raiseError_statusInv hl rfl (by simp)
  · rw [he]; exact raiseError_statusInv hl rfl (by simp)
  · rw [he]
    exact finish_statusInv { hl with no_ll_zero := by simp, ll_has_frame := fun _ => hv } hs

/-- The end of CRC16 and of MFR, which write `RESULT` (rules R94 and R146). -/
theorem finish_result_statusInv {s : State} (h : s.ResultInv) (hs : started s) (v : Word) :
    (finish { s with result := v }).StatusInv := finish_statusInv { h with } hs

theorem runCrc16_statusInv {b : Buffer} {s : State} (h : s.ResultInv) (hs : started s) :
    (runCrc16 cvs b s).StatusInv := by
  obtain ⟨f, he, hk⟩ | ⟨-, -, he⟩ := runCrc16_cases b s
  · rw [he]; exact raiseError_statusInv { h with } hk.symm (by simp)
  · rw [he]; exact finish_result_statusInv h hs _

theorem runMfr_statusInv {s : State} (h : s.ResultInv) (hs : started s) : (runMfr s).StatusInv := by
  rw [runMfr]; exact finish_result_statusInv h hs _

theorem exec_statusInv {i : Instr} {s t : State} (h : s.ResultInv) (hs : started s) (he : exec i s = .next t) :
    t.StatusInv := by
  cases i with
  | strip => cases he; exact runStrip_statusInv hs
  | lldec => cases he; exact runLldec_statusInv h hs
  | crc16 b => cases he; exact runCrc16_statusInv h hs
  | mfr => cases he; exact runMfr_statusInv h hs

/-! ### The inputs -/

theorem badCommand_statusInv {s : State} (h : s.ResultInv) : (badCommand s).StatusInv :=
  raiseError_statusInv h rfl (by simp)

/-- The accepted write of `CMD`, of a legal byte or of a reserved one (rules R60 and R75). -/
theorem writeCmd_statusInv (b : Byte) {s : State} (h : s.ResultInv) : (writeCmd b s).StatusInv := by
  obtain ⟨hd, he⟩ | ⟨-, he⟩ := writeCmd_cases b s
  · rw [he]
    exact { h with
      busy_not_done := by simp
      busy_legal := fun _ => hd
      err_done := by simp
      err_iff_kind := by simp
      kind_of_cause := rfl
      no_err_no_detail := by simp }
  · rw [he]; exact badCommand_statusInv { h with }

theorem writeReg_statusInv (r : Reg) (v : Word) {s : State} (h : s.StatusInv) : (writeReg r v s).StatusInv := by
  obtain ⟨he, -⟩ | ⟨he, -⟩ | ⟨he, -⟩ | ⟨he, -⟩ | ⟨he, -⟩ | ⟨he, -⟩ | ⟨he, -⟩ := writeReg_cases r v s <;> rw [he]
  · exact writeCmd_statusInv _ h.resultInv
  · exact h.frame ..
  · exact h.frame ..
  · exact h.frame ..
  · exact h.frame ..
  · exact h.frame ..
  · exact h

theorem hostAccess_statusInv {a : Access} {s t : State} (h : s.StatusInv) (ht : hostAccess cvs a s = .next t) :
    t.StatusInv := by
  obtain ⟨d, n, rfl⟩ | rfl | ⟨-, ⟨r, v, _, -, -, -, rfl⟩ | ⟨i, v, -, -, rfl⟩⟩ := hostAccess_cases ht
  · exact h.frame ..
  · exact h
  · exact writeReg_statusInv r v h
  · exact h.frame ..

theorem blockTurn_statusInv {s t : State} (h : s.StatusInv) (ht : blockTurn s = .next t) : t.StatusInv := by
  obtain ⟨-, rfl⟩ | ⟨hb, ⟨i, -, he⟩ | ⟨-, rfl⟩⟩ := blockTurn_cases ht
  · exact h
  · exact exec_statusInv h.resultInv (h.started hb) he
  · exact badCommand_statusInv h.resultInv

/-- Settles O53: at reset every flag and every register the invariant speaks of is 0. -/
theorem resetHasStatusInv : Obligations.ResetHasStatusInv where
  busy_not_done := by decide
  busy_legal := by simp [State.reset]
  err_done := by decide
  ovalid_iff_kind := by decide
  err_iff_kind := by decide
  kind_of_cause := rfl
  no_err_no_detail := by decide
  no_frame_no_len := by decide
  no_ll_zero := by decide
  ll_has_frame := by decide

theorem resetInput_statusInv (s : State) : (resetInput s).StatusInv :=
  State.StatusInv.frame (s := State.reset) resetHasStatusInv ..

/-- Settles O54, by what a step can do: the block's turn, a host access, or reset. -/
theorem stepKeepsStatusInv : Obligations.StepKeepsStatusInv := by
  intro s t h ht
  obtain ⟨-, hb⟩ | ⟨rest, ⟨-, hb⟩ | ⟨a, -, ha⟩ | ⟨-, rfl⟩⟩ := step_cases ht
  · exact blockTurn_statusInv h hb
  · exact blockTurn_statusInv (h.frame ..) hb
  · exact hostAccess_statusInv (h.frame ..) ha
  · exact resetInput_statusInv _

end Sys2Proof.Machine
end

section
/-! PROOF. The form of the two buffers (rules R26, R27, R50, R51), which the host's write of an `IBUF` byte, the start of
STRIP, its commit and reset alone can touch. -/

namespace Sys2Proof.Machine

/-- The buffers' form speaks of the cells of both buffers and of `OLEN` only. -/
theorem State.BufferInv.congr {s t : State} (h : s.BufferInv) (hi : t.ibuf = s.ibuf) (ho : t.obuf = s.obuf)
    (hl : t.olen = s.olen) : t.BufferInv where
  ibuf_wf := hi ▸ h.ibuf_wf
  obuf_wf := ho ▸ h.obuf_wf
  ibuf_within := hi ▸ h.ibuf_within
  obuf_within := ho ▸ h.obuf_within
  olen_le := hl ▸ h.olen_le
  obuf_full := ho ▸ hl ▸ h.obuf_full

/-! ### The operations -/

theorem stripStart_bufferInv {s : State} (h : s.BufferInv) : (stripStart s).BufferInv :=
  { h with
    obuf_wf := List.Pairwise.nil
    obuf_within := by simp
    olen_le := by simp
    obuf_full := by simp }

/-- A committed output that fits is written in full and nothing past it (rule R51). -/
theorem commit_bufferInv {out : List Byte} {s : State} (k : Kind) (h : s.BufferInv) (hout : out.length ≤ 512) :
    (commit out k s).BufferInv := by
  have hlen : (BitVec.ofNat 16 out.length).toNat = out.length := by
    rw [BitVec.toNat_ofNat]; omega
  refine { h with obuf_wf := ?_, obuf_within := ?_, olen_le := ?_, obuf_full := ?_ }
  · exact cellsFrom_wf 0 out
  · exact cellsFrom_within (by simpa using hout)
  · rw [commit_olen, hlen]; exact hout
  · intro i hi
    rw [commit_olen, hlen] at hi
    simp [cellAt_cellsFrom_zero, hi]

theorem runStrip_bufferInv {s : State} (h : s.BufferInv) : (runStrip cvs s).BufferInv := by
  have hs := stripStart_bufferInv h
  obtain ⟨k, f, he, -⟩ | ⟨out, k, he, hn, -, hle, -⟩ := runStrip_cases s
  · rw [he]; exact hs.congr rfl rfl rfl
  · rw [he]; exact commit_bufferInv k hs (by omega)

theorem runLldec_bufferInv {s : State} (h : s.BufferInv) : (runLldec cvs s).BufferInv := by
  obtain ⟨-, he⟩ | ⟨-, -, he⟩ | ⟨-, -, he⟩ := runLldec_cases s <;> rw [he] <;> exact h.congr rfl rfl rfl

theorem runCrc16_bufferInv {b : Buffer} {s : State} (h : s.BufferInv) : (runCrc16 cvs b s).BufferInv := by
  obtain ⟨f, he, -⟩ | ⟨-, -, he⟩ := runCrc16_cases b s <;> rw [he] <;> exact h.congr rfl rfl rfl

theorem exec_bufferInv {i : Instr} {s t : State} (h : s.BufferInv) (he : exec i s = .next t) : t.BufferInv := by
  cases i with
  | strip => cases he; exact runStrip_bufferInv h
  | lldec => cases he; exact runLldec_bufferInv h
  | crc16 b => cases he; exact runCrc16_bufferInv h
  | mfr => cases he; exact h.congr rfl rfl rfl

/-! ### The inputs -/

theorem hostAccess_bufferInv {a : Access} {s t : State} (h : s.BufferInv) (ht : hostAccess cvs a s = .next t) :
    t.BufferInv := by
  obtain ⟨d, n, rfl⟩ | rfl | ⟨-, ⟨r, v, _, -, -, -, rfl⟩ | ⟨i, v, -, hi, rfl⟩⟩ := hostAccess_cases ht
  · exact h.congr rfl rfl rfl
  · exact h
  · exact h.congr (writeReg_ibuf r v s) (writeReg_obuf r v s) (writeReg_olen r v s)
  · exact { h with
      ibuf_wf := setCell_wf i v h.ibuf_wf
      ibuf_within := setCell_within v h.ibuf_within hi }

theorem blockTurn_bufferInv {s t : State} (h : s.BufferInv) (ht : blockTurn s = .next t) : t.BufferInv := by
  obtain ⟨-, rfl⟩ | ⟨-, ⟨i, -, he⟩ | ⟨-, rfl⟩⟩ := blockTurn_cases ht
  · exact h
  · exact exec_bufferInv h he
  · exact h.congr rfl rfl rfl

/-- Settles O55: both buffers are empty and `OLEN` is 0. -/
theorem resetHasBufferInv : Obligations.ResetHasBufferInv where
  ibuf_wf := reset_memory_wf.1
  obuf_wf := reset_memory_wf.2
  ibuf_within := by simp [State.reset]
  obuf_within := by simp [State.reset]
  olen_le := by decide
  obuf_full := by simp [State.reset]

/-- Settles O56, by what a step can do: the block's turn, a host access, or reset. -/
theorem stepKeepsBufferInv : Obligations.StepKeepsBufferInv := by
  intro s t h ht
  obtain ⟨-, hb⟩ | ⟨rest, ⟨-, hb⟩ | ⟨a, -, ha⟩ | ⟨-, rfl⟩⟩ := step_cases ht
  · exact blockTurn_bufferInv h hb
  · exact blockTurn_bufferInv (s := { s with script := rest }) (h.congr rfl rfl rfl) hb
  · exact hostAccess_bufferInv (s := { s with script := rest }) (h.congr rfl rfl rfl) ha
  · exact State.BufferInv.congr (s := State.reset) resetHasBufferInv rfl rfl rfl

end Sys2Proof.Machine
end

section
/-! PROOF. One rule per host access (rules R14, R42, R44, R45, R195): what the step that takes it answers, idle and busy;
and the obligations on the registers and buffers that these rules settle. -/

namespace Sys2Proof.Machine

open Sys2Proof.Reference

/-! ### Register accesses -/

section
variable {s : State} {rest : List Input} {idx : Nat} {v : Word}

theorem step_writeReg (hs : s.script = .host (.writeReg (4 * idx) 4 v) :: rest) :
    step s = .next (hostWrite (writeRegAt idx v) { s with script := rest }) := by
  rw [step_cons hs]
  simp only [takeInput, hostAccess, wordAligned_mul, if_true, Nat.mul_div_cancel_left idx (show 0 < 4 by decide)]

theorem step_writeReg_idle (hs : s.script = .host (.writeReg (4 * idx) 4 v) :: rest) (hb : s.busy = false) :
    step s = .next (writeRegAt idx v { s with script := rest }) := by
  simp [step_writeReg hs, hostWrite, hb]

/-- A register write while busy is ignored (rule R195). -/
theorem step_writeReg_busy (hs : s.script = .host (.writeReg (4 * idx) 4 v) :: rest) (hb : s.busy = true) :
    step s = .next { s with script := rest } := by
  simp [step_writeReg hs, hostWrite, hb]

theorem step_readReg (hs : s.script = .host (.readReg (4 * idx) 4) :: rest) :
    step s = .next (hostRead (idleReadReg s idx) (busyReadReg s idx) { s with script := rest }) := by
  rw [step_cons hs]
  simp only [takeInput, hostAccess, wordAligned_mul, if_true, Nat.mul_div_cancel_left idx (show 0 < 4 by decide)]
  unfold idleReadReg busyReadReg
  rfl

theorem step_readReg_idle (hs : s.script = .host (.readReg (4 * idx) 4) :: rest) (hb : s.busy = false) :
    step s = .next { s with readData := idleReadReg s idx, script := rest } := by
  simp [step_readReg hs, hostRead, hb]

theorem step_readReg_busy (hs : s.script = .host (.readReg (4 * idx) 4) :: rest) (hb : s.busy = true) :
    step s = .next { s with readData := busyReadReg s idx, busyReads := s.busyReads + 1, script := rest } := by
  simp [step_readReg hs, hostRead, hb]

end

/-! ### What an index reads and writes -/

@[simp] theorem writeRegAt_index (r : Reg) (v : Word) (s : State) : writeRegAt r.index v s = writeReg r v s := by
  simp only [writeRegAt, regAt_index]

@[simp] theorem idleReadReg_index (s : State) (r : Reg) : idleReadReg s r.index = readReg s r := by
  simp only [idleReadReg, regAt_index]

theorem idleReadReg_reserved {idx : Nat} (s : State) (h : idx = 14 ∨ idx = 15 ∨ 28 ≤ idx) : idleReadReg s idx = 0 := by
  simp only [idleReadReg, regAt_reserved h]

theorem writeRegAt_reserved {idx : Nat} (v : Word) (s : State) (h : idx = 14 ∨ idx = 15 ∨ 28 ≤ idx) :
    writeRegAt idx v s = s := by
  simp only [writeRegAt, regAt_reserved h]

/-- Every index but those of the six writable registers ignores a write (rules R12, R14, R18, R22, R25). -/
theorem writeRegAt_readOnly {idx : Nat} (v : Word) (s : State) (h : idx ∉ [0, 2, 3, 4, 5, 6]) :
    writeRegAt idx v s = s := by
  cases hr : regAt idx with
  | none => simp only [writeRegAt, hr]
  | some r =>
    obtain rfl := regAt_some hr
    rw [writeRegAt_index]
    cases r with
    | cmd | hint | ilen | arg0 | arg1 | cursor => exact absurd h (by decide)
    | _ => rfl

/-- While busy `STATUS` reads as it stands (rule R44). -/
theorem busyReadReg_status (s : State) : busyReadReg s Reg.status.index = (statusByte s).setWidth 32 := by
  simp only [busyReadReg, regAt_index]

/-! ### Buffer accesses -/

section
variable {s : State} {rest : List Input} {b : Buffer} {i : Nat} {v : Byte}

theorem step_writeBuf (hs : s.script = .host (.writeBuf b i v) :: rest) (hi : i < 512) :
    step s = .next (hostWrite (writeBuf b i v) { s with script := rest }) := by
  have hc : i < cvs.cap b := by cases b <;> exact hi
  rw [step_cons hs]
  simp only [takeInput, hostAccess, if_pos hc]

theorem step_readBuf_idle (hs : s.script = .host (.readBuf b i) :: rest) (hi : i < 512) (hb : s.busy = false) :
    step s = .next { s with readData := (bufByte s b i).setWidth 32, script := rest } := by
  have hc : i < cvs.cap b := by cases b <;> exact hi
  rw [step_cons hs]
  simp only [takeInput, hostAccess, if_pos hc, hostRead, hb]
  rfl

end

/-- What a buffer byte reads as depends on the buffer's cells and generation only. -/
theorem bufByte_congr {s t : State} {b : Buffer} (hc : bufCells t b = bufCells s b) (hg : bufGen t b = bufGen s b)
    (i : Nat) : bufByte t b i = bufByte s b i := by
  simp only [bufByte, unlistedByte, hc, hg]

/-- A written byte of `IBUF` reads as written (rule R26). -/
theorem bufByte_setCell_same {s t : State} {i : Nat} {v : Byte} (h : t.ibuf = setCell s.ibuf i v) :
    bufByte t .ibuf i = v := by
  simp [bufByte, bufCells, h, cellAt_setCell_same]

/-- A write of a byte of `IBUF` keeps every other byte (rule R26). -/
theorem bufByte_setCell_other {s t : State} {i j : Nat} {v : Byte} (h : t.ibuf = setCell s.ibuf i v)
    (hg : t.ibufGen = s.ibufGen) (hj : j ≠ i) : bufByte t .ibuf j = bufByte s .ibuf j := by
  simp [bufByte, bufCells, unlistedByte, bufGen, h, hg, cellAt_setCell_other _ _ hj]

/-- Two bytes packed with zero above (rule R25, `LL_RAWAF_HI`). -/
theorem packBytes_zero_high (a b : Byte) : packBytes a b 0 0 = (b ++ a).setWidth 32 := by
  rw [BitVec.setWidth_eq_append (by decide), packBytes, BitVec.append_assoc]
  rfl

/-! ### The obligations on host accesses -/

/-- Settles O7: busy, every write is ignored; idle, no index but the six writable ones and no byte of `OBUF` takes one. -/
theorem readOnlyWritesAreIgnored : Obligations.ReadOnlyWritesAreIgnored := by
  refine fun s rest => ⟨fun idx v hidx hs => ?_, fun i v hi hs => ?_⟩
  · rw [step_writeReg hs, hostWrite, writeRegAt_readOnly v _ hidx, ite_self]
  · rw [step_writeBuf hs hi, hostWrite, writeBuf, ite_self]

/-- Settles O9: the statement's table is the register file's index map with what each register reads as. -/
theorem registersReadAtTheirIndex : Obligations.RegistersReadAtTheirIndex := by
  refine fun s rest hb => ⟨fun p hp hs => ?_, fun idx hidx => ⟨fun hs => ?_, fun v hs => ?_⟩⟩
  · have hmem : p ∈ allRegs.map fun r => (r.index, readReg s r) := by
      rw [← packBytes_zero_high] at hp
      exact hp
    obtain ⟨r, -, rfl⟩ := List.mem_map.1 hmem
    rw [step_readReg_idle hs hb, idleReadReg_index]
  · rw [step_readReg_idle hs hb, idleReadReg_reserved s hidx]
  · rw [step_writeReg_idle hs hb, writeRegAt_reserved v _ hidx]

/-- Settles O12, by the read-after-write laws of a buffer's cells. -/
theorem inputBufferHoldsWhatTheHostWrites : Obligations.InputBufferHoldsWhatTheHostWrites := by
  refine fun s i v rest hb hi => ⟨fun hs => ?_, fun b hs => step_readBuf_idle hs hi hb⟩
  refine ⟨{ s with ibuf := setCell s.ibuf i v, script := rest }, ?_, bufByte_setCell_same rfl,
    fun j hj => bufByte_setCell_other rfl rfl hj, bufByte_congr rfl rfl⟩
  simp [step_writeBuf hs hi, hostWrite, writeBuf, hb]

/-- Settles O15: every register is evaluated in `State.reset`, whose buffers have no written byte. -/
theorem resetStateIsZero : Obligations.ResetStateIsZero := by
  refine ⟨fun r => ?_, by decide, rfl, rfl, rfl, rfl, fun b i => ?_⟩
  · cases r <;> decide
  · cases b <;> rfl

/-- Settles O57: the tables are checked entry by entry, and an idle read answers the code in the low bits. -/
theorem errorRegistersReadTheirCodes : Obligations.ErrorRegistersReadTheirCodes := by
  refine ⟨fun s rest hb hs p hp hk => ?_, fun s rest hb hs p hp hc => ?_, fun c => ?_, fun c => ?_, rfl⟩
  · have hcode : (errKindCode p.1).setWidth 32 = p.2 := by clear hk; revert p; decide
    rw [step_readReg_idle (idx := Reg.errKind.index) hs hb, idleReadReg_index, readReg, hk, hcode]
  · have hcode : (causeCode p.1).setWidth 32 = p.2 := by clear hc; revert p; decide
    rw [step_readReg_idle (idx := Reg.errCause.index) hs hb, idleReadReg_index, readReg, hc, hcode]
  · cases c <;> decide
  · cases c <;> decide

/-! ### The status byte -/

/-- Settles O52: the flags' bits are evaluated, and different kinds have different numbers. -/
theorem statusByteLayout : Obligations.StatusByteLayout := by
  intro s
  obtain ⟨-, -, -, -, -, hk⟩ := statusByte_bits s
  rw [hk]
  refine ⟨?_, kindCode_inj _ .none, kindCode_inj _ .wired, kindCode_inj _ .wirelessA, kindCode_inj _ .wirelessB,
    kindCode_inj _ .wirelessNoCrc⟩
  unfold statusByte
  generalize s.busy = b, s.done = d, s.err = e, s.ovalid = o, s.llvalid = l, kindCode s.kind = k
  revert b d e o l k
  decide

/-- A byte read as a word has the byte's bits (rule R14). -/
theorem getLsbD_byteWord (x : Byte) {i : Nat} (hi : i < 32) : (x.setWidth 32).getLsbD i = x.getLsbD i := by
  rw [BitVec.getLsbD_setWidth, decide_eq_true hi, Bool.true_and]

/-- A byte read as a word has zero above (rule R14). -/
theorem byteWord_high (x : Byte) : (x.setWidth 32).extractLsb' 8 24 = (0 : BitVec 24) := by
  ext i hi
  simp

/-- The read of `STATUS` while an operation runs (rules R18 and R44). -/
theorem step_readStatus_started {s : State} {rest : List Input} (hst : started s)
    (hs : s.script = .host (.readReg 4 4) :: rest) :
    ∃ v : Word, step s = .next { s with readData := v, busyReads := s.busyReads + 1, script := rest } ∧
      v.getLsbD 0 = true ∧ v.getLsbD 1 = false ∧ v.getLsbD 2 = false ∧ v.getLsbD 3 = s.ovalid ∧
      v.getLsbD 4 = s.llvalid ∧ v.extractLsb' 5 3 = kindCode s.kind ∧ v.extractLsb' 8 24 = 0 := by
  obtain ⟨hbusy, hdone, herr, -⟩ := hst
  obtain ⟨h0, h1, h2, h3, h4, hk⟩ := statusByte_bits s
  refine ⟨(statusByte s).setWidth 32, ?_, ?_, ?_, ?_, ?_, ?_, ?_, byteWord_high _⟩
  · rw [step_readReg_busy (idx := Reg.status.index) hs hbusy, busyReadReg_status]
  · rw [getLsbD_byteWord _ (by decide), h0, hbusy]
  · rw [getLsbD_byteWord _ (by decide), h1, hdone]
  · rw [getLsbD_byteWord _ (by decide), h2, herr]
  · rw [getLsbD_byteWord _ (by decide), h3]
  · rw [getLsbD_byteWord _ (by decide), h4]
  · rw [BitVec.extractLsb'_setWidth_of_le (by decide), hk]

/-- Settles O11: the write of a legal byte leaves its operation started, and the read of `STATUS` shows its flags. -/
theorem statusIsReadableWhileBusy : Obligations.StatusIsReadableWhileBusy := by
  refine ⟨fun s rest hst hs => step_readStatus_started hst hs, fun s w i rest hb hd hs => ?_⟩
  have hstep := step_writeReg_idle (idx := Reg.cmd.index) hs hb
  rw [writeRegAt_index, writeReg, writeCmd_ok _ hd] at hstep
  obtain ⟨v, hv⟩ := step_readStatus_started
    (s := acceptCmd (w.setWidth 8) { s with script := .host (.readReg 4 4) :: rest }) (by simp [started]) rfl
  exact ⟨_, v, hstep, hv⟩

end Sys2Proof.Machine
end

section
/-! PROOF. What no operation changes (the operand registers and `IBUF`), and how `CURSOR` moves (rules R11, R17, R26). -/

namespace Sys2Proof.Machine

open Sys2Proof.Reference

/-! ### The operations' common frame -/

/-- No operation writes an operand register or `IBUF` (rules R11 and R26). -/
theorem exec_keeps_inputs {i : Instr} {s t : State} (h : exec i s = .next t) :
    t.hint = s.hint ∧ t.ilen = s.ilen ∧ t.arg0 = s.arg0 ∧ t.arg1 = s.arg1 ∧ t.ibuf = s.ibuf ∧ t.ibufGen = s.ibufGen := by
  cases i with
  | strip =>
    cases h
    obtain ⟨k, f, he, -⟩ | ⟨out, k, he, -⟩ := runStrip_cases s <;> simp [he]
  | lldec =>
    cases h
    obtain ⟨-, he⟩ | ⟨-, -, he⟩ | ⟨-, -, he⟩ := runLldec_cases s <;> simp [he]
  | crc16 b =>
    cases h
    obtain ⟨f, he, -⟩ | ⟨-, -, he⟩ := runCrc16_cases b s <;> simp [he]
  | mfr => cases h; simp [runMfr]

/-- STRIP of an `ILEN` above the capacity (rules R112 and R166). -/
theorem exec_strip_badLen {s : State} (h : s.ilen.toNat > 512) :
    exec .strip s = .next (failedStrip s .unexpectedState .badLen 0 512 s.ilen) := by
  rw [exec_strip, runStrip, stripBody, if_pos (show (stripStart s).ilen.toNat > cvs.ibufCap from h)]
  simp [raiseError, stripStart, failedStrip]

/-- CRC16 on `IBUF` with an `ILEN` above the capacity (rules R94 and R166). -/
theorem exec_crc16_badLen {s : State} (h : s.ilen.toNat > 512) :
    exec (.crc16 .ibuf) s = .next (failed { s with result := 0 } .unexpectedState .badLen 0 512 s.ilen) := by
  rw [exec_crc16, runCrc16, if_pos (show s.ilen.toNat > cvs.ibufCap from h)]
  simp [crc16Fail, raiseError, failed]

/-- Settles O8: the writes by the rule of a register write, the frame by what each operation can do. -/
theorem operandRegistersHoldWhatTheHostWrites : Obligations.OperandRegistersHoldWhatTheHostWrites := by
  refine ⟨⟨rfl, rfl, rfl, rfl⟩, fun s v rest hb => ⟨fun hs => ?_, fun hs => ?_, fun hs => ?_, fun hs => ?_⟩,
    fun s idx v rest hb _ hs => step_writeReg_busy hs hb, fun s => ⟨rfl, rfl, rfl, rfl⟩, fun i s t he => ?_,
    fun s h => ⟨exec_strip_badLen h, exec_crc16_badLen h⟩⟩
  · rw [step_writeReg_idle (idx := Reg.hint.index) hs hb, writeRegAt_index, writeReg]
  · rw [step_writeReg_idle (idx := Reg.ilen.index) hs hb, writeRegAt_index, writeReg]
  · rw [step_writeReg_idle (idx := Reg.arg0.index) hs hb, writeRegAt_index, writeReg]
  · rw [step_writeReg_idle (idx := Reg.arg1.index) hs hb, writeRegAt_index, writeReg]
  · obtain ⟨hh, hl, h0, h1, -⟩ := exec_keeps_inputs he
    exact ⟨hh, hl, h0, h1⟩

/-! ### `IBUF` -/

theorem exec_bufByte_ibuf {i : Instr} {s t : State} (h : exec i s = .next t) (j : Nat) :
    bufByte t .ibuf j = bufByte s .ibuf j := by
  obtain ⟨-, -, -, -, hc, hg⟩ := exec_keeps_inputs h
  exact bufByte_congr (b := .ibuf) hc hg j

theorem blockTurn_bufByte_ibuf {s t : State} (h : blockTurn s = .next t) (j : Nat) :
    bufByte t .ibuf j = bufByte s .ibuf j := by
  obtain ⟨-, rfl⟩ | ⟨-, ⟨i, -, he⟩ | ⟨-, rfl⟩⟩ := blockTurn_cases h
  · rfl
  · exact exec_bufByte_ibuf he j
  · rfl

/-- A host access changes a byte of `IBUF` only by writing it while idle (rule R26). -/
theorem hostAccess_bufByte_ibuf {a : Access} {s t : State} (h : hostAccess cvs a s = .next t) (j : Nat) :
    bufByte t .ibuf j = bufByte s .ibuf j ∨
      s.busy = false ∧ ∃ v, a = .writeBuf .ibuf j v ∧ bufByte t .ibuf j = v := by
  obtain ⟨d, n, rfl⟩ | rfl | ⟨hb, ⟨r, v, _, -, -, -, rfl⟩ | ⟨i, v, rfl, -, rfl⟩⟩ := hostAccess_cases h
  · exact .inl (bufByte_congr rfl rfl j)
  · exact .inl rfl
  · exact .inl (bufByte_congr (b := .ibuf) (writeReg_ibuf r v s) (writeReg_ibufGen r v s) j)
  · by_cases hj : j = i
    · subst hj; exact .inr ⟨hb, v, rfl, bufByte_setCell_same rfl⟩
    · exact .inl (bufByte_setCell_other rfl rfl hj)

/-- Settles O49, by what a step other than reset can do: the block's turn or a host access. -/
theorem inputBufferChangesOnlyByHostOrReset : Obligations.InputBufferChangesOnlyByHostOrReset := by
  intro s t ht hne j
  obtain ⟨-, hb⟩ | ⟨rest, ⟨-, hb⟩ | ⟨a, hs, ha⟩ | ⟨hs, -⟩⟩ := step_cases ht
  · exact .inl (blockTurn_bufByte_ibuf hb j)
  · exact .inl (blockTurn_bufByte_ibuf hb j)
  · obtain hkeep | ⟨hbusy, v, rfl, hv⟩ := hostAccess_bufByte_ibuf ha j
    · exact .inl hkeep
    · exact .inr ⟨hbusy, v, rest, hs, hv⟩
  · exact absurd hs (hne rest)

/-! ### `CURSOR` -/

theorem runStrip_cursor (s : State) : (runStrip cvs s).cursor = 0 := by
  obtain ⟨k, f, he, -⟩ | ⟨out, k, he, -⟩ := runStrip_cases s <;> simp [he]

theorem runCrc16_cursor (b : Buffer) (s : State) : (runCrc16 cvs b s).cursor = s.cursor := by
  obtain ⟨f, he, -⟩ | ⟨-, -, he⟩ := runCrc16_cases b s <;> simp [he]

/-- An LLDEC from a state without an error either fails and leaves `CURSOR`, or moves it past the window, which lies
inside the frame (rules R17 and R140). -/
theorem runLldec_cursor {s : State} (he : s.err = false) :
    (runLldec cvs s).olen = s.olen ∧
      ((runLldec cvs s).err = true ∧ (runLldec cvs s).cursor = s.cursor ∨
        (runLldec cvs s).err = false ∧
          (runLldec cvs s).cursor.toNat = s.cursor.toNat + (if s.kind = .wired then 6 else 10) ∧
          (runLldec cvs s).cursor.toNat ≤ s.olen.toNat) := by
  obtain ⟨-, hr⟩ | ⟨-, -, hr⟩ | ⟨-, hle, hr⟩ := runLldec_cases s <;> rw [hr]
  · exact ⟨rfl, .inl ⟨rfl, rfl⟩⟩
  · exact ⟨rfl, .inl ⟨rfl, rfl⟩⟩
  · have hfit : (BitVec.ofNat 16 (s.cursor.toNat + windowLen cvs s.kind)).toNat =
        s.cursor.toNat + windowLen cvs s.kind := by
      have := s.olen.isLt
      rw [BitVec.toNat_ofNat]; omega
    refine ⟨rfl, .inr ⟨he, ?_, hfit.trans_le hle⟩⟩
    rw [← windowLen_cvs]; exact hfit

/-- Settles O51, by what each operation can do to `CURSOR` and the rule of a register write. -/
theorem cursorMovesAsTheRuleSays : Obligations.CursorMovesAsTheRuleSays := by
  refine ⟨rfl, fun s t h => ?_, fun s t he h => ?_, fun b s t h => ?_, fun s t h => ?_, fun s v rest hb hs => ?_⟩
  · cases h; exact runStrip_cursor s
  · cases h
    obtain ⟨holen, ⟨herr, hc⟩ | ⟨herr, hc, hle⟩⟩ := runLldec_cursor he
    · exact ⟨fun _ => hc, fun h => by simp [herr] at h⟩
    · exact ⟨fun h => by simp [herr] at h, fun _ => ⟨hc, holen ▸ hle, fun hinv => hle.trans hinv.olen_le⟩⟩
  · cases h; exact runCrc16_cursor b s
  · cases h; rfl
  · rw [step_writeReg_idle (idx := Reg.cursor.index) hs hb, writeRegAt_index, writeReg]

end Sys2Proof.Machine
end

section
/-! PROOF. The command byte a decoded operation came from (rule R61), which inputs stop the machine (rules R42 and R45),
and what each host access leaves unchanged (rule R43). -/

namespace Sys2Proof.Machine

open Sys2Proof.Reference

/-! ### The fields of a command byte -/

/-- A command byte is its three fields `{rsv, b, OP}` (rule R61). -/
theorem command_eq_fields (b : Byte) : b = cmdRsv b ++ BitVec.ofBool (cmdSel b) ++ cmdOp b := by
  revert b; decide

/-- An operation without a buffer select decodes only with bit 4 at 0 (rule R61). -/
theorem decodePlain_ok {b : Byte} {i j : Instr} (h : decodePlain b i = .ok j) : cmdSel b = false ∧ j = i := by
  unfold decodePlain at h
  split at h <;> cases h
  exact ⟨by simpa using ‹¬cmdSel b = true›, rfl⟩

/-- The fields of a command byte that decodes are those of the operation's encoding (rule R61). -/
theorem decode_ok_fields {b : Byte} {i : Instr} (h : decode b = .ok i) :
    cmdRsv b = 0 ∧ cmdSel b = selOf i ∧ cmdOp b = opOf i := by
  unfold decode at h
  split_ifs at h with hrsv hop hop hop hop
  · obtain ⟨hsel, rfl⟩ := decodePlain_ok h; exact ⟨not_not.1 hrsv, hsel, hop⟩
  · obtain ⟨hsel, rfl⟩ := decodePlain_ok h; exact ⟨not_not.1 hrsv, hsel, hop⟩
  · cases h; exact ⟨not_not.1 hrsv, by cases cmdSel b <;> rfl, hop⟩
  · obtain ⟨hsel, rfl⟩ := decodePlain_ok h; exact ⟨not_not.1 hrsv, hsel, hop⟩

/-- Only its encoding decodes to an operation (rules R61 and R75). -/
theorem eq_encode_of_decode {b : Byte} {i : Instr} (h : decode b = .ok i) : b = encode i := by
  obtain ⟨hrsv, hsel, hop⟩ := decode_ok_fields h
  rw [command_eq_fields b, hrsv, hsel, hop]
  rfl

/-! ### The inputs that stop the machine, and those that do not -/

section
variable {s : State} {rest : List Input}

/-- The step that takes a host access is that access, taken off the script. -/
theorem step_host {a : Access} (hs : s.script = .host a :: rest) :
    step s = hostAccess cvs a { s with script := rest } := step_cons hs

theorem step_readReg_partial {offset size : Nat} (hs : s.script = .host (.readReg offset size) :: rest)
    (h : ¬(size = 4 ∧ offset % 4 = 0)) : step s = .refused (.partialRegisterAccess offset size) := by
  rw [step_host hs]
  exact if_neg (mt (wordAligned_iff offset size).1 h)

theorem step_writeReg_partial {offset size : Nat} {v : Word} (hs : s.script = .host (.writeReg offset size v) :: rest)
    (h : ¬(size = 4 ∧ offset % 4 = 0)) : step s = .refused (.partialRegisterAccess offset size) := by
  rw [step_host hs]
  exact if_neg (mt (wordAligned_iff offset size).1 h)

/-- Both buffers of CVS hold 512 bytes (rules R5, R26, R27). -/
theorem cap_cvs (b : Buffer) : cvs.cap b = 512 := by cases b <;> rfl

theorem step_readBuf_outside {b : Buffer} {i : Nat} (hs : s.script = .host (.readBuf b i) :: rest) (hi : 512 ≤ i) :
    step s = .fault (.outsideBuffer b i) := by
  rw [step_host hs]
  exact if_neg (by rw [cap_cvs]; omega)

theorem step_writeBuf_outside {b : Buffer} {i : Nat} {v : Byte} (hs : s.script = .host (.writeBuf b i v) :: rest)
    (hi : 512 ≤ i) : step s = .fault (.outsideBuffer b i) := by
  rw [step_host hs]
  exact if_neg (by rw [cap_cvs]; omega)

end

/-- Settles O13, by what the step answers to each access that is not well formed. -/
theorem undefinedHostAccessesStop : Obligations.UndefinedHostAccessesStop := fun _ _ =>
  ⟨fun _ _ h => ⟨fun hs => step_readReg_partial hs h, fun _ hs => step_writeReg_partial hs h⟩,
    fun _ _ hi => ⟨fun hs => step_readBuf_outside hs hi, fun _ hs => step_writeBuf_outside hs hi⟩⟩

/-- A well-formed input is answered (rules R42, R45, R164). -/
theorem takeInput_next {x : Input} (s : State) (h : x.wellFormed cvs = true) : ∃ t, takeInput cvs x s = .next t := by
  cases x with
  | host a => exact hostAccess_next s h
  | block => exact blockTurn_next s
  | reset => exact ⟨_, rfl⟩

/-- Settles O18: the block's turn is always answered, and so is every well-formed input. -/
theorem definedInputsNeverStop : Obligations.DefinedInputsNeverStop := by
  intro s h
  cases hs : s.script with
  | nil => rw [step_nil hs]; exact blockTurn_next s
  | cons x rest => rw [step_cons hs]; exact takeInput_next _ (h x rest hs)

/-! ### What a host access changes -/

/-- An access that is neither a register write nor a write of `IBUF` changes only what the model itself keeps of reads
(rule R43, log entries 4 and 5). -/
theorem hostAccess_frame_of_read {p : Params} {a : Access} {s t : State} (h : hostAccess p a s = .next t)
    (hreg : ∀ offset v, a ≠ .writeReg offset 4 v) (hbuf : ∀ i v, a ≠ .writeBuf .ibuf i v) :
    t = { s with readData := t.readData, busyReads := t.busyReads } := by
  obtain ⟨d, n, rfl⟩ | rfl | ⟨-, ⟨r, v, offset, ha, -⟩ | ⟨i, v, ha, -⟩⟩ := hostAccess_cases h
  · rfl
  · rfl
  · exact absurd ha (hreg offset v)
  · exact absurd ha (hbuf i v)

section
variable {s t : State} {rest : List Input} (ht : step s = .next t)
include ht

/-- An answered write of a buffer byte lies inside the window (rule R45). -/
theorem lt_of_step_writeBuf {b : Buffer} {i : Nat} {v : Byte} (hs : s.script = .host (.writeBuf b i v) :: rest) :
    i < 512 := by
  by_contra hi
  rw [step_writeBuf_outside hs (Nat.le_of_not_lt hi)] at ht
  cases ht

/-- The write of a byte of `IBUF`, idle and busy (rules R26 and R195). -/
theorem step_writeBuf_ibuf {i : Nat} {v : Byte} (hs : s.script = .host (.writeBuf .ibuf i v) :: rest) :
    t = { s with ibuf := if s.busy then s.ibuf else setCell s.ibuf i v, script := rest } := by
  rw [step_writeBuf hs (lt_of_step_writeBuf ht hs)] at ht
  cases ht
  simp only [hostWrite, writeBuf]
  cases s.busy <;> rfl

/-- The write of a register, idle and busy (rules R11, R17 and R195). -/
theorem step_writeReg_index {r : Reg} {v : Word} (hs : s.script = .host (.writeReg (4 * r.index) 4 v) :: rest) :
    t = if s.busy then { s with script := rest } else writeReg r v { s with script := rest } := by
  rw [step_writeReg hs] at ht
  cases ht
  rw [hostWrite, writeRegAt_index]

end

/-- Settles O10: a read by the frame of an access that writes nothing, a write by the rule of its byte or register. -/
theorem hostAccessesHaveNoSideEffect : Obligations.HostAccessesHaveNoSideEffect := by
  refine fun s t rest ht => ⟨fun offset size hs => ?_, fun b i hs => ?_, fun i v hs => ?_,
    fun v hs => ?_, fun v hs => ?_, fun v hs => ?_, fun v hs => ?_, fun v hs => ?_, fun v i hb hd hs => ?_⟩
  · rw [step_host hs] at ht
    exact hostAccess_frame_of_read ht nofun nofun
  · rw [step_host hs] at ht
    exact hostAccess_frame_of_read ht nofun nofun
  · obtain rfl := step_writeBuf_ibuf ht hs
    refine ⟨rfl, fun j hj => ?_, fun hb => bufByte_setCell_same (s := s) (by simp [hb])⟩
    cases hb : s.busy with
    | true => exact bufByte_congr rfl rfl j
    | false => exact bufByte_setCell_other rfl rfl hj
  · rw [step_writeReg_index (r := .hint) ht hs, writeReg]; cases s.busy <;> rfl
  · rw [step_writeReg_index (r := .ilen) ht hs, writeReg]; cases s.busy <;> rfl
  · rw [step_writeReg_index (r := .arg0) ht hs, writeReg]; cases s.busy <;> rfl
  · rw [step_writeReg_index (r := .arg1) ht hs, writeReg]; cases s.busy <;> rfl
  · rw [step_writeReg_index (r := .cursor) ht hs, writeReg]; cases s.busy <;> rfl
  · rw [step_writeReg_index (r := .cmd) ht hs, hb, writeReg, writeCmd_ok _ hd, ← eq_encode_of_decode hd]
    simp [started]

end Sys2Proof.Machine
end

section
/-! PROOF. The command byte decodes as the operation table says (rules R61 and R75), and the accepted `CMD` write starts
the decoded operation or, for a reserved byte, ends at once (rules R60 and R75). -/

namespace Sys2Proof.Machine

open Sys2Proof.Reference

/-! ### The decoder is the encoder's inverse -/

theorem decode_encode (i : Instr) : decode (encode i) = .ok i := by
  cases i with
  | strip => rfl
  | lldec => rfl
  | crc16 b => cases b <;> rfl
  | mfr => rfl

theorem decode_eq_ok_iff {b : Byte} {i : Instr} : decode b = .ok i ↔ b = encode i :=
  ⟨eq_encode_of_decode, fun h => h ▸ decode_encode i⟩

/-- The five legal command bytes are the encodings of the operations (rule R75). -/
theorem decodes_iff_mem (b : Byte) :
    (∃ i, decode b = .ok i) ↔ b ∈ ([0x01, 0x02, 0x03, 0x13, 0x04] : List Byte) := by
  simp only [decode_eq_ok_iff]
  constructor
  · rintro ⟨i, rfl⟩
    cases i with
    | strip => decide
    | lldec => decide
    | crc16 b => cases b <;> decide
    | mfr => decide
  · simp only [List.mem_cons, List.not_mem_nil, or_false]
    rintro (rfl | rfl | rfl | rfl | rfl)
    · exact ⟨.strip, rfl⟩
    · exact ⟨.lldec, rfl⟩
    · exact ⟨.crc16 .ibuf, rfl⟩
    · exact ⟨.crc16 .obuf, rfl⟩
    · exact ⟨.mfr, rfl⟩

/-- Every other byte is rejected by name (rule R75). -/
theorem decode_error_of_notMem {b : Byte} (h : b ∉ ([0x01, 0x02, 0x03, 0x13, 0x04] : List Byte)) :
    ∃ e, decode b = .error e := by
  cases hd : decode b with
  | ok i => exact absurd ((decodes_iff_mem b).1 ⟨i, hd⟩) h
  | error e => exact ⟨e, rfl⟩

/-- Every operation's encoding fits its row of the operation table (rule R61). -/
theorem encode_fits_row (i : Instr) : Laws.CommandByte.Statement i := by
  cases i with
  | strip => exact Laws.CommandByte.strip
  | lldec => exact Laws.CommandByte.lldec
  | crc16 b => exact Laws.CommandByte.crc16 b
  | mfr => exact Laws.CommandByte.mfr

/-- Settles O2: the decoder is the encoder's inverse. -/
theorem decodeEncodeAgree : Obligations.DecodeEncodeAgree := fun _ _ _ => decode_eq_ok_iff

/-- Settles O1: the five rows are encodings, and a byte that decodes is the encoding that fits its row. -/
theorem commandBytesDecode : Obligations.CommandBytesDecode := by
  refine ⟨decode_encode .strip, decode_encode .lldec, decode_encode (.crc16 .ibuf), decode_encode (.crc16 .obuf),
    decode_encode .mfr, fun _ => decode_error_of_notMem, fun b i hd => ?_⟩
  obtain ⟨hrow, -⟩ := encode_fits_row i
  rwa [eq_encode_of_decode hd]

/-! ### The step that runs an operation -/

/-- The block's turn runs the operation the command byte encodes (rules R47 and R60). -/
theorem blockTurn_exec {s : State} {i : Instr} (hb : s.busy = true) (hd : decode s.cmd = .ok i) :
    blockTurn s = exec i s := by
  rw [blockTurn_busy hb, runOperation_ok hd]

/-- The block's turn at the head of the script runs the operation the command byte encodes (rule R60). -/
theorem step_block_exec {s : State} {i : Instr} {rest : List Input} (hs : s.script = .block :: rest)
    (hb : s.busy = true) (hd : decode s.cmd = .ok i) : step s = exec i { s with script := rest } := by
  rw [step_cons hs]
  exact blockTurn_exec (s := { s with script := rest }) hb hd

theorem tableByte_toNat (b : Byte) : tableByte 8 b.toNat = b := by
  rw [tableByte, Nat.mod_eq_of_lt b.isLt, BitVec.ofNat_toNat, BitVec.setWidth_eq]

/-- Settles O4: in each form the step is the block's turn, which runs the decoded operation. -/
theorem stepRunsDecodedInstruction : Obligations.StepRunsDecodedInstruction := by
  refine fun s i _ => ⟨fun hb hd => ⟨fun hs => ?_, fun rest hs => ?_⟩, fun b hd => ?_⟩
  · rw [step_nil hs, blockTurn_exec hb hd]
  · exact step_block_exec hs hb hd
  · rw [State.withFetchWord, tableByte_toNat]
    exact step_block_exec (s := withCommand b s) rfl rfl hd

/-! ### The accepted `CMD` write -/

/-- Every operation ends, in error or not, with `BUSY = 0` and `DONE = 1` (rules R163 and R164). -/
theorem exec_ended (i : Instr) (s : State) : ∃ t, exec i s = .next t ∧ t.ended := by
  cases i with
  | strip =>
    refine ⟨_, exec_strip s, ?_⟩
    obtain ⟨k, f, he, -⟩ | ⟨out, k, he, -⟩ := runStrip_cases s <;> rw [he] <;> exact ⟨rfl, rfl⟩
  | lldec =>
    refine ⟨_, exec_lldec s, ?_⟩
    obtain ⟨-, he⟩ | ⟨-, -, he⟩ | ⟨-, -, he⟩ := runLldec_cases s <;> rw [he] <;> exact ⟨rfl, rfl⟩
  | crc16 b =>
    refine ⟨_, exec_crc16 b s, ?_⟩
    obtain ⟨f, he, -⟩ | ⟨-, -, he⟩ := runCrc16_cases b s <;> rw [he] <;> exact ⟨rfl, rfl⟩
  | mfr => exact ⟨_, exec_mfr s, rfl, rfl⟩

theorem step_writeCmd_idle {s : State} {v : Word} {rest : List Input} (hb : s.busy = false)
    (hs : s.script = .host (.writeReg 0 4 v) :: rest) :
    step s = .next (writeCmd (v.setWidth 8) { s with script := rest }) := by
  rw [step_writeReg_idle (idx := Reg.cmd.index) hs hb, writeRegAt_index, writeReg]

/-- Settles O5: the write accepts the command, and the block's turn after it runs the decoded operation to its end. -/
theorem acceptedCommandStartsOperation : Obligations.AcceptedCommandStartsOperation := by
  intro s v rest i hb hd hs
  have hrun := step_block_exec (s := acceptCmd (v.setWidth 8) { s with script := .block :: rest }) rfl rfl hd
  obtain ⟨t, ht, hend⟩ := exec_ended i _
  refine ⟨_, rfl, ?_, hrun, t, hrun.trans ht, hend⟩
  rw [step_writeCmd_idle hb hs, writeCmd_ok _ hd]
  rfl

/-- A reserved byte's error reports the byte (rules R75 and R166). -/
theorem badCommand_acceptCmd (b : Byte) (s : State) :
    badCommand (acceptCmd b s) = failed { s with cmd := b } .unexpectedState .badCmd 0 0 (b.setWidth 16) := by
  rw [← BitVec.ofNat_toNat 16 b]
  rfl

/-- Settles O3: a byte outside the table is an error of the decoder, and its accepted write ends as a bad command. -/
theorem reservedCommandRunsNothing : Obligations.ReservedCommandRunsNothing := by
  refine ⟨decodes_iff_mem, fun s v rest hb hv hs => ?_⟩
  obtain ⟨e, he⟩ := decode_error_of_notMem hv
  rw [step_writeCmd_idle hb hs, writeCmd_error _ he, badCommand_acceptCmd]

end Sys2Proof.Machine
end

section
/-! PROOF. Round trips: a frame built by rule R65, R67 or R68 is stripped to its data (rules R113, R115, R116). -/

namespace Sys2Proof.Machine

open Sys2Proof.Reference

/-! ### A committed verdict as the host sees it -/

/-- STRIP of a legal input whose parsing commits `out`: the output is readable whole, and no error is reported (rules
R110 and R117). -/
theorem exec_strip_commit {s : State} {out : List Byte} {kind : Kind} {n : Nat} (hlen : s.ilen.toNat ≤ 512)
    (hhint : s.hint ≠ 3) (hd : deframe cvs (hintOf s.hint) (inputFrame s) = .commit out kind) (hn : out.length = n) :
    ∃ t, exec .strip s = .next t ∧ t.ovalid = true ∧ t.kind = kind ∧ t.err = s.err ∧ t.olen.toNat = n ∧
      bufRange t .obuf 0 t.olen.toNat = out := by
  obtain ⟨hle, -, -⟩ := deframe_commit hd
  rw [inputFrame_length] at hle
  have holen : (commit out kind (stripStart s)).olen.toNat = out.length := by
    rw [commit_olen, BitVec.toNat_ofNat]; omega
  refine ⟨commit out kind (stripStart s), ?_, rfl, rfl, rfl, holen.trans hn, ?_⟩
  · rw [exec_strip, runStrip_legal hlen hhint, hd]
    rfl
  · rw [holen, bufRange_commit]

/-- A wired frame that passes its check is committed under every hint (rules R111 and R113). -/
theorem deframe_wired {B out : List Byte} (h : Hint) (hw : wiredMarkers B) (hc : checkWired B = .ok out) :
    deframe cvs h B = .commit out .wired := by
  have h0 : ¬B.length = 0 := by have := hw.1; omega
  rw [deframe, if_neg h0, if_pos ((isWired_iff B).2 hw), hc]

/-- A wireless frame that is long enough and passes its check is committed, unless bypassed (rules R110 and R120). -/
theorem deframe_wireless {B out : List Byte} {h : Hint} {kind : Kind} (hw : ¬wiredMarkers B) (hh : h ≠ .isFalse)
    (hl : byteAt B 0 + 1 ≤ B.length) (hc : checkWireless cvs B = (.ok out, kind)) :
    deframe cvs h B = .commit out kind := by
  rw [deframe, if_neg (by omega), if_neg (mt (isWired_iff B).1 hw), deframeWireless,
    if_neg (show ¬B.length < expectedLen (byteAt B 0) by rw [expectedLen]; omega), if_neg (fun hf => hh hf.1), hc]

theorem hint_legal_of_unknown_or_true {h : BitVec 2} (hh : h = 0 ∨ h = 1) : h ≠ 3 ∧ hintOf h ≠ .isFalse := by
  rcases hh with rfl | rfl <;> decide

/-! ### Bytes of a concatenation -/

theorem byteAt_append_left {pre : List Byte} (rest : List Byte) {i : Nat} (h : i < pre.length) :
    byteAt (pre ++ rest) i = byteAt pre i := by
  rw [byteAt, List.getD_append _ _ _ _ h, byteAt]

theorem byteAt_append_right (pre rest : List Byte) {i j : Nat} (h : i = pre.length + j) :
    byteAt (pre ++ rest) i = byteAt rest j := by
  rw [byteAt, List.getD_append_right _ _ _ _ (by omega), show i - pre.length = j by omega, byteAt]

theorem range_append_middle (pre mid post : List Byte) {a b : Nat} (ha : a = pre.length)
    (hb : b = pre.length + mid.length) : range (pre ++ mid ++ post) a b = mid := by
  simp [range, ha, hb]

theorem withCrc_length (d : List Byte) : (withCrc d).length = d.length + 2 := by simp [withCrc]

theorem byteAt_withCrc {d : List Byte} (rest : List Byte) {i : Nat} (h : i < d.length) :
    byteAt (withCrc d ++ rest) i = byteAt d i := by
  rw [withCrc, List.append_assoc, byteAt_append_left _ h]

/-! ### The wired frame -/

/-- The four header bytes of a wired frame (rule R65). -/
def wiredHeader (user : List Byte) : List Byte :=
  [0x68, BitVec.ofNat 8 user.length, BitVec.ofNat 8 user.length, 0x68]

theorem frameWired_eq (user : List Byte) : frameWired user = wiredHeader user ++ user ++ [sum8 user, 0x16] := rfl

theorem frameWired_length (user : List Byte) : (frameWired user).length = user.length + 6 := by
  simp [frameWired]

theorem byteAt_frameWired_header (user : List Byte) {i : Nat} (h : i < 4) :
    byteAt (frameWired user) i = byteAt (wiredHeader user) i := by
  rw [frameWired_eq, List.append_assoc, byteAt_append_left _ (by simpa [wiredHeader] using h)]

theorem byteAt_frameWired_trailer (user : List Byte) (j : Nat) :
    byteAt (frameWired user) (user.length + 4 + j) = byteAt [sum8 user, 0x16] j := by
  exact byteAt_append_right (wiredHeader user ++ user) [sum8 user, 0x16] (by simp [wiredHeader])

/-- A built wired frame carries the three markers (rule R65). -/
theorem wiredMarkers_frameWired (user : List Byte) : wiredMarkers (frameWired user) := by
  have hlen := frameWired_length user
  refine ⟨by omega, byteAt_frameWired_header user (by decide), byteAt_frameWired_header user (by decide), ?_⟩
  rw [show (frameWired user).length - 1 = user.length + 4 + 1 by omega]
  exact byteAt_frameWired_trailer user 1

/-- The copies, the count and the checksum of a built wired frame agree (rule R113). -/
theorem checkWired_frameWired {user : List Byte} (h : user.length ≤ 255) :
    checkWired (frameWired user) = .ok (wiredHeader user ++ user) := by
  have hlen : (frameWired user).length - 2 = user.length + 4 := by
    rw [frameWired_length]; omega
  have hcount : byteAt (wiredHeader user) 1 = user.length := by
    show (BitVec.ofNat 8 user.length).toNat = user.length
    rw [BitVec.toNat_ofNat]; omega
  have huser : range (frameWired user) 4 (user.length + 4) = user := by
    exact range_append_middle (wiredHeader user) user [sum8 user, 0x16] rfl (Nat.add_comm ..)
  refine checkWired_eq_ok.2 ⟨?_, ?_, ?_, ?_⟩
  · rw [byteAt_frameWired_header user (by decide), byteAt_frameWired_header user (by decide)]
    rfl
  · rw [byteAt_frameWired_header user (by decide), hcount, frameWired_length]
  · rw [hlen, huser]
    exact (byteAt_frameWired_trailer user 0).symm
  · rw [hlen]
    exact (range_append_middle [] _ [sum8 user, 0x16] rfl (by simp [wiredHeader])).symm

/-- Settles O47: a built wired frame carries the markers and passes the check. -/
theorem wiredFrameStripsToItsData : Obligations.WiredFrameStripsToItsData := by
  intro s user hu hB hh
  have hilen : s.ilen.toNat = user.length + 6 := by rw [← inputFrame_length, hB, frameWired_length]
  have hd : deframe cvs (hintOf s.hint) (inputFrame s) = .commit (wiredHeader user ++ user) .wired := by
    rw [hB]; exact deframe_wired _ (wiredMarkers_frameWired user) (checkWired_frameWired hu)
  exact exec_strip_commit (by omega) hh hd (by simp)

/-! ### A built block -/

/-- A built block passes its check wherever it stands (rule R91). -/
theorem checkBlock_withCrc (pre d rest : List Byte) (block : Nat) {a n : Nat} (ha : a = pre.length)
    (hn : n = d.length) : checkBlock cvs (pre ++ withCrc d ++ rest) block a n = .ok d := by
  subst ha hn
  exact checkBlock_eq_ok.2 ⟨by rw [range_withCrc, storedCrc_withCrc], (range_withCrc pre d rest).symm⟩

/-- A built block with a data byte is long enough for Type B (rules R68 and R115). -/
theorem checkBlockB_withCrc (pre rest : List Byte) {d : List Byte} (block : Nat) {a len : Nat} (ha : a = pre.length)
    (hlen : len = d.length + 2) (hd : d ≠ []) :
    checkBlockB cvs (pre ++ withCrc d ++ rest) block a len = .ok d := by
  have hpos := List.length_pos_iff.2 hd
  exact checkBlockB_eq_ok.2 ⟨by rw [cvs_minBlock]; omega,
    checkBlock_withCrc pre d rest block ha (by rw [cvs_crcLen]; omega)⟩

/-! ### The Type B frame -/

theorem frameB_nil (block1 : List Byte) : frameB block1 [] = withCrc block1 := rfl

theorem frameB_of_ne_nil {block1 block2 : List Byte} (h : block2 ≠ []) :
    frameB block1 block2 = withCrc block1 ++ withCrc block2 := if_neg h

/-- A Type B frame of one built block passes its check (rule R115). -/
theorem checkTypeB_one {block : List Byte} (h : block ≠ []) (hl : block.length ≤ 126) :
    checkTypeB cvs (withCrc block) = .ok block := by
  have hlen := withCrc_length block
  have hblock := checkBlockB_withCrc [] [] (a := 0) (len := min (withCrc block).length 128) 1 rfl (by omega) h
  rw [List.nil_append, List.append_nil] at hblock
  refine Check.andThen_eq_ok.2 ⟨block, hblock, ?_⟩
  rw [cvs_bBlock1, if_neg (by omega)]

/-- A Type B frame of a full first block and a second one, both built, passes its check (rule R115). -/
theorem checkTypeB_two {block1 block2 : List Byte} (hl : block1.length = 126) (h : block2 ≠ []) :
    checkTypeB cvs (withCrc block1 ++ withCrc block2) = .ok (block1 ++ block2) := by
  have hlen1 := withCrc_length block1
  have hlen2 := withCrc_length block2
  have hpos := List.length_pos_iff.2 h
  have hlen : (withCrc block1 ++ withCrc block2).length = block2.length + 130 := by
    rw [List.length_append]; omega
  have hfirst := checkBlockB_withCrc [] (withCrc block2) (a := 0) (len := min (block2.length + 130) 128) 1 rfl
    (by omega) (List.ne_nil_of_length_eq_add_one hl)
  have hsecond := checkBlockB_withCrc (withCrc block1) [] (a := 128) (len := block2.length + 130 - 128) 2 (by omega)
    (by omega) h
  rw [List.append_nil] at hsecond
  rw [checkTypeB, hlen]
  refine Check.andThen_eq_ok.2 ⟨block1, hfirst, ?_⟩
  rw [cvs_bBlock1, if_pos (by omega)]
  exact Check.andThen_eq_ok.2 ⟨block2, hsecond, rfl⟩

/-- A built Type B frame passes its check (rules R68 and R115). -/
theorem checkTypeB_frameB {block1 block2 : List Byte} (h1 : block1 ≠ []) (hl1 : block1.length ≤ 126)
    (hfull : block2 ≠ [] → block1.length = 126) :
    checkTypeB cvs (frameB block1 block2) = .ok (block1 ++ block2) := by
  by_cases h2 : block2 = []
  · rw [h2, frameB_nil, List.append_nil, checkTypeB_one h1 hl1]
  · rw [frameB_of_ne_nil h2, checkTypeB_two (hfull h2) h2]

theorem frameB_length_le {block1 block2 : List Byte} (hl1 : block1.length ≤ 126) (hl2 : block2.length ≤ 126) :
    (frameB block1 block2).length ≤ 256 := by
  have hlen1 := withCrc_length block1
  have hlen2 := withCrc_length block2
  unfold frameB
  split
  · omega
  · rw [List.length_append]; omega

theorem byteAt_frameB_zero {block1 : List Byte} (block2 : List Byte) (h : block1 ≠ []) :
    byteAt (frameB block1 block2) 0 = byteAt block1 0 := by
  have hpos := List.length_pos_iff.2 h
  unfold frameB
  split
  · simpa using byteAt_withCrc [] hpos
  · exact byteAt_withCrc _ hpos

/-- Settles O46: a built Type B frame has the length its L-field gives, and passes the Type B check. -/
theorem typeBFrameStripsToItsData : Obligations.TypeBFrameStripsToItsData := by
  intro s block1 block2 h1 hl1 hl2 hfull hL hB hh hw
  obtain ⟨hlegal, hnf⟩ := hint_legal_of_unknown_or_true hh
  have hilen : s.ilen.toNat ≤ 512 := by
    have := frameB_length_le hl1 hl2
    rw [← inputFrame_length, hB]; omega
  have hc : checkWireless cvs (inputFrame s) = (.ok (block1 ++ block2), .wirelessB) := by
    rw [hB, checkWireless, if_pos (by rw [byteAt_frameB_zero _ h1, expectedLen, hL]),
      checkTypeB_frameB h1 hl1 hfull]
  have hle : byteAt (inputFrame s) 0 + 1 ≤ (inputFrame s).length := by
    rw [hB, byteAt_frameB_zero _ h1, hL]
  exact exec_strip_commit hilen hlegal (deframe_wireless hw hnf hle hc) List.length_append

/-! ### The Type A frame -/

theorem blocksA_length {nb : Nat} {payload : List Byte} (h : nb = (payload.length + 15) / 16) :
    (blocksA nb payload).length = payload.length + 2 * nb := by
  induction nb generalizing payload with
  | zero => simp only [blocksA, List.length_nil]; omega
  | succ nb ih =>
    rw [blocksA, List.length_append, withCrc_length, ih (by rw [List.length_drop]; omega), List.length_take,
      List.length_drop]
    omega

/-- The data blocks of a built Type A frame pass from block `j + 1` on, wherever the blocks before it end (rule R116). -/
theorem checkBlocksA_blocksA {d nb j : Nat} {pre payload : List Byte} (rest out : List Byte)
    (hnb : nb = (payload.length + 15) / 16) (hd : d - 16 * j = payload.length)
    (hpre : nb ≠ 0 → pre.length = 12 + 18 * j) :
    checkBlocksA cvs (pre ++ blocksA nb payload ++ rest) d nb (j + 1) out = .ok (out ++ payload) := by
  induction nb generalizing j pre payload out with
  | zero =>
    have hnil : payload = [] := List.length_eq_zero_iff.1 (by omega)
    rw [checkBlocksA, hnil, List.append_nil]
  | succ nb ih =>
    have hpre := hpre (by omega)
    have hB : pre ++ blocksA (nb + 1) payload ++ rest =
        pre ++ withCrc (payload.take 16) ++ (blocksA nb (payload.drop 16) ++ rest) := by
      simp only [blocksA, List.append_assoc]
    have hblock : checkBlock cvs (pre ++ blocksA (nb + 1) payload ++ rest) (j + 1) (12 + 18 * j)
        (min 16 (d - 16 * j)) = .ok (payload.take 16) := by
      rw [hB]
      exact checkBlock_withCrc _ _ _ _ hpre.symm (by rw [hd, List.length_take])
    have hrest : checkBlocksA cvs (pre ++ blocksA (nb + 1) payload ++ rest) d nb (j + 1 + 1)
        (out ++ payload.take 16) = .ok (out ++ payload) := by
      rw [hB, ← List.append_assoc, ih (out ++ payload.take 16) (by rw [List.length_drop]; omega)
        (by rw [List.length_drop]; omega)
        (fun hne => by rw [List.length_append, withCrc_length, List.length_take]; omega),
        List.append_assoc, List.take_append_drop]
    exact Check.andThen_eq_ok.2 ⟨payload.take 16, hblock, hrest⟩

section
variable {header payload : List Byte} (hh : header.length = 10)
include hh

theorem frameA_length :
    (frameA header payload).length = payload.length + 12 + 2 * ((payload.length + 15) / 16) := by
  rw [frameA, List.length_append, withCrc_length, blocksA_length rfl]
  omega

theorem byteAt_frameA_zero (trailing : List Byte) : byteAt (frameA header payload ++ trailing) 0 = byteAt header 0 := by
  rw [frameA, List.append_assoc, byteAt_withCrc _ (by omega)]

/-- A built Type A frame passes its check, trailing data or not (rules R116 and R123). -/
theorem checkTypeA_frameA (trailing : List Byte) (hL : byteAt header 0 = payload.length + 9) :
    checkTypeA cvs (frameA header payload ++ trailing) = .ok (header ++ payload) := by
  have hnb : blocksOfA (payload.length + 9) = (payload.length + 15) / 16 := by rw [blocksOfA]; omega
  have hlen := frameA_length (payload := payload) hh
  have hheader : checkBlock cvs (frameA header payload ++ trailing) 0 0 10 = .ok header := by
    rw [frameA, List.append_assoc]
    exact checkBlock_withCrc [] header _ 0 rfl hh.symm
  have hdata : checkBlocksA cvs (frameA header payload ++ trailing) (payload.length + 9 - 9)
      ((payload.length + 15) / 16) 1 header = .ok (header ++ payload) :=
    checkBlocksA_blocksA (j := 0) trailing header rfl (by omega) (fun _ => by rw [withCrc_length, hh])
  rw [checkTypeA_unfold, byteAt_frameA_zero hh, hL, hnb, if_neg (by omega),
    if_neg (by rw [List.length_append]; omega)]
  exact Check.andThen_eq_ok.2 ⟨header, hheader, hdata⟩

end

/-- Settles O45: a built Type A frame is longer than its L-field says, and passes the Type A check. -/
theorem typeAFrameStripsToItsData : Obligations.TypeAFrameStripsToItsData := by
  intro s header payload trailing hheader _ hL hB hilen hh hw
  obtain ⟨hlegal, hnf⟩ := hint_legal_of_unknown_or_true hh
  have hlong : byteAt (inputFrame s) 0 + 1 < (inputFrame s).length := by
    rw [hB, byteAt_frameA_zero hheader, hL, List.length_append, frameA_length hheader]; omega
  have hc : checkWireless cvs (inputFrame s) = (.ok (header ++ payload), .wirelessA) := by
    rw [checkWireless, if_neg (by rw [expectedLen]; omega), hB, checkTypeA_frameA hheader trailing hL]
  refine exec_strip_commit hilen hlegal (deframe_wireless hw hnf hlong.le hc) ?_
  rw [List.length_append]; omega

end Sys2Proof.Machine
end

section
/-! PROOF. The CRC register is a remainder of the shifted message on division by the generator over GF(2) (rule R90):
one shift of the register multiplies its residue by `X`, one message byte is eight shifts, and a message its bytes. -/

namespace Sys2Proof.Machine

open Polynomial Sys2Proof.Reference

/-! ### Bits as polynomials over GF(2) -/

theorem bitsPoly_xor {w : Nat} (u v : BitVec w) : bitsPoly (u ^^^ v) = bitsPoly u + bitsPoly v := by
  rw [bitsPoly, bitsPoly, bitsPoly, ← Finset.sum_add_distrib]
  refine Finset.sum_congr rfl fun i _ => ?_
  rw [BitVec.getLsbD_xor]
  cases u.getLsbD i <;> cases v.getLsbD i <;> simp [CharTwo.add_self_eq_zero]

/-- A shift by one multiplies by `X`, but for the top bit, which is lost. -/
theorem bitsPoly_shiftLeft_one {w : Nat} (v : BitVec (w + 1)) :
    bitsPoly v * X = bitsPoly (v <<< 1) + if v.msb then X ^ (w + 1) else 0 := by
  have hlow (i : Nat) (hi : i ∈ Finset.range w) : (v <<< 1).getLsbD (i + 1) = v.getLsbD i := by
    have := Finset.mem_range.1 hi
    simp [-BitVec.getLsbD_eq_getElem, BitVec.getLsbD_shiftLeft, this]
  have hmsb : v.msb = v.getLsbD w := by simp [BitVec.msb_eq_getLsbD_last]
  rw [bitsPoly, bitsPoly, Finset.sum_range_succ, Finset.sum_range_succ', add_mul, Finset.sum_mul, hmsb]
  congr 1
  · rw [show (v <<< 1).getLsbD 0 = false by simp, if_neg Bool.false_ne_true, add_zero]
    refine Finset.sum_congr rfl fun i hi => ?_
    rw [hlow i hi, ite_mul, zero_mul, pow_succ]
  · rw [ite_mul, zero_mul, pow_succ]

/-- A byte at the top of the register is the byte times `X ^ 8`. -/
theorem bitsPoly_byte_top (b : Byte) : bitsPoly (b.setWidth 16 <<< 8) = bitsPoly b * X ^ 8 := by
  have hlow (i : Nat) (hi : i ∈ Finset.range 8) : (b.setWidth 16 <<< 8).getLsbD i = false := by
    have := Finset.mem_range.1 hi
    simp [this]
  have hhigh (i : Nat) (hi : i ∈ Finset.range 8) : (b.setWidth 16 <<< 8).getLsbD (8 + i) = b.getLsbD i := by
    have := Finset.mem_range.1 hi
    simp [-BitVec.getLsbD_eq_getElem, BitVec.getLsbD_shiftLeft, show i < 16 by omega, show 8 + i < 16 by omega]
  rw [bitsPoly, bitsPoly, Finset.sum_range_add _ 8 8, Finset.sum_mul,
    Finset.sum_eq_zero fun i hi => by rw [hlow i hi, if_neg Bool.false_ne_true], zero_add]
  refine Finset.sum_congr rfl fun i hi => ?_
  rw [hhigh i hi, ite_mul, zero_mul, pow_add, mul_comm]

@[simp] theorem bitsPoly_zero (w : Nat) : bitsPoly (0 : BitVec w) = 0 := by simp [bitsPoly]

/-- The generator is `X ^ 16` and the bits of `CRC_POLY` (rules R5 and R90). -/
theorem generator_eq_crcPoly : generator = X ^ 16 + bitsPoly cvs.crcPoly := by
  simp [generator, bitsPoly, Finset.sum_range_succ, cvs]
  ring

/-! ### Residues modulo the generator -/

/-- The residue class of a polynomial modulo the generator. -/
noncomputable def residue : (ZMod 2)[X] →+* AdjoinRoot generator := AdjoinRoot.mk generator

/-- Polynomials of one residue class differ by a multiple of the generator. -/
theorem residue_eq_iff {P R : (ZMod 2)[X]} : residue P = residue R ↔ ∃ q, P = q * generator + R := by
  simp only [residue, AdjoinRoot.mk_eq_mk, dvd_def, sub_eq_iff_eq_add, mul_comm generator]

/-- The generator's top term is congruent to the rest of it. -/
theorem residue_X_pow_sixteen : residue (X ^ 16) = residue (bitsPoly cvs.crcPoly) := by
  refine residue_eq_iff.2 ⟨1, ?_⟩
  rw [one_mul, generator_eq_crcPoly, add_assoc, CharTwo.add_self_eq_zero, add_zero]

/-! ### The register -/

theorem residue_crcShift (r : Half) : residue (bitsPoly (crcShift cvs r)) = residue (bitsPoly r * X) := by
  rw [bitsPoly_shiftLeft_one, crcShift, map_add]
  split
  · rw [bitsPoly_xor, map_add, residue_X_pow_sixteen]
  · rw [map_zero, add_zero]

theorem residue_crcShift_repeat (k : Nat) (r : Half) :
    residue (bitsPoly (Nat.repeat (crcShift cvs) k r)) = residue (bitsPoly r * X ^ k) := by
  induction k with
  | zero => rw [pow_zero, mul_one]; rfl
  | succ k ih => rw [Nat.repeat, residue_crcShift, map_mul, ih, ← map_mul, mul_assoc, pow_succ]

/-- A message byte enters 8 places above the register's low end and is shifted up with it by another 8. -/
theorem residue_crcByte (r : Half) (b : Byte) :
    residue (bitsPoly (crcByte cvs r b)) = residue (bitsPoly r * X ^ 8 + bitsPoly b * X ^ 16) := by
  rw [crcByte, residue_crcShift_repeat, bitsPoly_xor, show crcBitOrder cvs b = b from rfl, bitsPoly_byte_top]
  ring_nf

/-- Rule R90's invariant over a message, from any register that agrees with the bytes before it. -/
theorem residue_foldl_crcByte (M : List Byte) {r : Half} {P : (ZMod 2)[X]}
    (h : residue (bitsPoly r) = residue (P * X ^ 16)) :
    residue (bitsPoly (M.foldl (crcByte cvs) r)) =
      residue (M.foldl (fun P b => P * X ^ 8 + bitsPoly b) P * X ^ 16) := by
  induction M generalizing r P with
  | nil => exact h
  | cons b M ih =>
    refine ih ?_
    rw [residue_crcByte, map_add, map_mul, h, ← map_mul, ← map_add]
    ring_nf

/-- The register after a message is congruent to the message shifted by 16. -/
theorem residue_crcRegister (M : List Byte) :
    residue (bitsPoly (crcRegister cvs M)) = residue (messagePoly M * X ^ 16) :=
  residue_foldl_crcByte M (by rw [show cvs.crcInit = 0 from rfl, bitsPoly_zero, zero_mul])

theorem crc16_cvs (M : List Byte) : crc16 cvs M = crcRegister cvs M ^^^ 0xFFFF := rfl

/-- Zero bytes leave a zero register zero (rule R90). -/
theorem crcRegister_zeros (n : Nat) : crcRegister cvs (List.replicate n 0) = 0 := by
  induction n with
  | zero => rfl
  | succ n ih =>
    have hzero : crcByte cvs 0 0 = 0 := by decide
    rw [List.replicate_succ, crcRegister, List.foldl_cons, show cvs.crcInit = 0 from rfl, hzero]
    exact ih

theorem crc16_nil : crc16 cvs [] = 0xFFFF := rfl

/-- The check value of the CRC (rule R90's worked example). -/
theorem crc16_check : crc16 cvs [0x31, 0x32, 0x33, 0x34, 0x35, 0x36, 0x37, 0x38, 0x39] = 0xC2B7 := by decide +kernel

/-- Settles O22: the register and the shifted message have one residue modulo the generator. -/
theorem crcIsPolynomialDivision : Obligations.CrcIsPolynomialDivision :=
  ⟨fun M => ⟨crcRegister cvs M, crc16_cvs M, residue_eq_iff.1 (residue_crcRegister M).symm⟩, crc16_nil,
    fun n => by rw [crc16_cvs, crcRegister_zeros]; rfl, crc16_check⟩

end Sys2Proof.Machine
end

section
/-! PROOF. The additive checksum (rule R92) and operation CRC16: its tests in order, its result, what its outcome
depends on and what it leaves unchanged (rules R94 and R95). -/

namespace Sys2Proof.Machine

open Sys2Proof.Reference

/-! ### The additive checksum -/

theorem sum8_append_singleton (M : List Byte) (b : Byte) : sum8 (M ++ [b]) = sum8 M + b := by
  simp [sum8, BitVec.ofNat_add]

/-- Settles O23: the checksum is the byte sum's low eight bits, and those of a sum are the sum of the parts'. -/
theorem additiveChecksum : Obligations.AdditiveChecksum :=
  ⟨fun _ => BitVec.toNat_ofNat .., rfl, sum8_append_singleton, by decide, by decide⟩

/-! ### The tests of CRC16, in order -/

theorem crc16Fail_eq_failed (c : Cause) (e a : Half) (s : State) :
    crc16Fail ⟨c, 0, e.toNat, a.toNat⟩ s = failed { s with result := 0 } .unexpectedState c 0 e a := by
  simp [crc16Fail, raiseError, failed]

/-- CRC16 on `OBUF` without a frame (rule R94). -/
theorem exec_crc16_noFrame {s : State} (h : s.ovalid = false) :
    exec (.crc16 .obuf) s = .next (failed { s with result := 0 } .unexpectedState .noFrame 0 0 0) := by
  rw [exec_crc16, runCrc16, if_neg (by simp [h])]
  exact congrArg _ (crc16Fail_eq_failed .noFrame 0 0 s)

/-- Once `ILEN` is within the capacity, CRC16 on `IBUF` is the range test and the checksum (rule R94). -/
theorem exec_crc16_ibuf {s : State} (h : s.ilen.toNat ≤ 512) :
    exec (.crc16 .ibuf) s = .next (crc16Range cvs .ibuf s) := by
  rw [exec_crc16, runCrc16, if_neg (show ¬s.ilen.toNat > cvs.ibufCap from Nat.not_lt.2 h)]

/-- Once there is a frame, CRC16 on `OBUF` is the range test and the checksum (rule R94). -/
theorem exec_crc16_obuf {s : State} (h : s.ovalid = true) :
    exec (.crc16 .obuf) s = .next (crc16Range cvs .obuf s) := by
  rw [exec_crc16, runCrc16, if_pos h]

/-- The register that holds the length of a buffer's valid bytes: `ILEN` or `OLEN` (rule R94). -/
def lenReg (s : State) : Buffer → Half
  | .ibuf => s.ilen
  | .obuf => s.olen

theorem bufLen_eq_lenReg (s : State) (b : Buffer) : bufLen s b = (lenReg s b).toNat := by cases b <;> rfl

theorem crc16Range_badRange {b : Buffer} {s : State}
    (h : s.arg0.toNat > s.arg1.toNat ∨ s.arg1.toNat > (lenReg s b).toNat) :
    crc16Range cvs b s = failed { s with result := 0 } .unexpectedState .badRange 0 (lenReg s b) s.arg1 := by
  rw [crc16Range, bufLen_eq_lenReg, if_pos h, crc16Fail_eq_failed]

theorem crc16Range_legal {b : Buffer} {s : State} (h0 : s.arg0.toNat ≤ s.arg1.toNat)
    (h1 : s.arg1.toNat ≤ (lenReg s b).toNat) :
    crc16Range cvs b s = finish { s with
      result := (crc16 cvs (bufRange s b s.arg0.toNat s.arg1.toNat)).setWidth 32 } := by
  rw [crc16Range, bufLen_eq_lenReg, if_neg (by omega)]

theorem bufRange_empty (s : State) (b : Buffer) (i : Nat) : bufRange s b i i = [] :=
  List.eq_nil_of_length_eq_zero (by simp)

/-- Settles O24, a clause for each test and for the checksum, on either buffer. -/
theorem crc16Operation : Obligations.Crc16Operation := by
  refine fun s => ⟨exec_crc16_badLen, exec_crc16_noFrame, fun hlen hr => ?_, fun hv hr => ?_, fun hlen h0 h1 => ?_,
    fun hv h0 h1 => ?_, fun b => ?_⟩
  · rw [exec_crc16_ibuf hlen, crc16Range_badRange (b := .ibuf) hr]; rfl
  · rw [exec_crc16_obuf hv, crc16Range_badRange (b := .obuf) hr]; rfl
  · rw [exec_crc16_ibuf hlen, crc16Range_legal (b := .ibuf) h0 h1]; rfl
  · rw [exec_crc16_obuf hv, crc16Range_legal (b := .obuf) h0 h1]; rfl
  · rw [bufRange_empty]; rfl

/-! ### What the outcome of CRC16 depends on -/

/-- Two states report alike: the same `RESULT`, `STATUS.ERR` and error registers. -/
def SameReport (s t : State) : Prop :=
  s.result = t.result ∧ s.err = t.err ∧ s.errKind = t.errKind ∧ s.errCause = t.errCause ∧ s.errBlock = t.errBlock ∧
    s.errExp = t.errExp ∧ s.errAct = t.errAct

/-- An error of CRC16 is reported alike from every state: `RESULT` is cleared (rule R94). -/
theorem crc16Fail_sameReport (f : Failure) (s t : State) : SameReport (crc16Fail f s) (crc16Fail f t) :=
  ⟨rfl, rfl, rfl, rfl, rfl, rfl, rfl⟩

/-- Started operations that end without error with one `RESULT` report alike (rules R60 and R163). -/
theorem finish_sameReport {s t : State} (hs : started s) (ht : started t) (v : Word) :
    SameReport (finish { s with result := v }) (finish { t with result := v }) := by
  obtain ⟨-, -, hs⟩ := hs
  obtain ⟨-, -, ht⟩ := ht
  simp [SameReport, hs, ht]

section
variable {b : Buffer} {s t : State} (hs : started s) (ht : started t) (h0 : s.arg0 = t.arg0) (h1 : s.arg1 = t.arg1)
  (hlen : bufLen s b = bufLen t b) (hbytes : ∀ i, i < bufLen s b → bufByte s b i = bufByte t b i)
include hs ht h0 h1 hlen hbytes

/-- The range test reads the operands and the length, the checksum valid bytes only (rule R95). -/
theorem crc16Range_sameReport : SameReport (crc16Range cvs b s) (crc16Range cvs b t) := by
  by_cases h : s.arg0.toNat > s.arg1.toNat ∨ s.arg1.toNat > bufLen s b
  · rw [crc16Range, crc16Range, ← h0, ← h1, ← hlen, if_pos h, if_pos h]
    exact crc16Fail_sameReport ..
  · have hrange : bufRange s b s.arg0.toNat s.arg1.toNat = bufRange t b s.arg0.toNat s.arg1.toNat :=
      bufRange_congr fun i _ hi => hbytes i (by omega)
    rw [crc16Range, crc16Range, ← h0, ← h1, ← hlen, if_neg h, if_neg h, hrange]
    exact finish_sameReport hs ht _

theorem runCrc16_sameReport (hov : b = .obuf → s.ovalid = t.ovalid) :
    SameReport (runCrc16 cvs b s) (runCrc16 cvs b t) := by
  have hrange := crc16Range_sameReport hs ht h0 h1 hlen hbytes
  cases b with
  | ibuf =>
    have hilen : s.ilen.toNat = t.ilen.toNat := hlen
    rw [runCrc16, runCrc16, ← hilen]
    split
    · exact crc16Fail_sameReport ..
    · exact hrange
  | obuf =>
    rw [runCrc16, runCrc16, ← hov rfl]
    split
    · exact hrange
    · exact crc16Fail_sameReport ..

end

/-- Settles O25, by the report of the operation from two states that agree on its inputs. -/
theorem crc16DependsOnItsInputsOnly : Obligations.Crc16DependsOnItsInputsOnly :=
  fun b s t hs ht h0 h1 hlen hbytes hov =>
    ⟨_, _, exec_crc16 b s, exec_crc16 b t, runCrc16_sameReport hs ht h0 h1 hlen hbytes hov⟩

/-! ### What CRC16 and MFR leave unchanged -/

/-- CRC16 and MFR write `RESULT`, `STATUS[2:0]` and the error registers only. -/
theorem exec_crc16_or_mfr_frame {i : Instr} {s t : State} (hi : i = .mfr ∨ ∃ b, i = .crc16 b)
    (h : exec i s = .next t) :
    t = { s with
      busy := t.busy, done := t.done, err := t.err, result := t.result, errKind := t.errKind, errCause := t.errCause,
      errBlock := t.errBlock, errExp := t.errExp, errAct := t.errAct } := by
  obtain rfl | ⟨b, rfl⟩ := hi
  · cases h; rfl
  · cases h
    obtain ⟨f, he, -⟩ | ⟨-, -, he⟩ := runCrc16_cases b s <;> rw [he] <;> rfl

/-- Settles O26, by the common frame: only `RESULT`, the status bits and the error registers can differ, and MFR
writes no error. -/
theorem crc16AndMfrFrame : Obligations.Crc16AndMfrFrame := by
  intro i s t hi h
  rw [exec_crc16_or_mfr_frame hi h]
  refine ⟨rfl, rfl, rfl, rfl, rfl, rfl, rfl, rfl, rfl, rfl, rfl, ?_, rfl, rfl, fun b j => ?_⟩
  · rintro rfl
    cases h
    exact ⟨rfl, rfl, rfl, rfl, rfl, rfl⟩
  · cases b <;> exact bufByte_congr rfl rfl j

end Sys2Proof.Machine
end

section
/-! PROOF. How STRIP ends, by what its parsing finds: the tests before it, the wired path, the short wireless buffer, the
checks of Type B and Type A, and what each hint makes of a failed check (rules R112 to R116 and R119 to R121). -/

namespace Sys2Proof.Machine

open Sys2Proof.Reference

/-! ### The end a verdict calls for -/

/-- A frame's length is the value of `ILEN` (rule R110). -/
theorem ofNat_inputFrame_length (s : State) : BitVec.ofNat 16 (inputFrame s).length = s.ilen := by
  rw [inputFrame_length, BitVec.ofNat_toNat, BitVec.setWidth_eq]

section
variable {s : State} {B : List Byte} (hB : B = inputFrame s) (hin : legalInput s)
include hB hin

theorem exec_strip_committed {out : List Byte} {kind : Kind} (hd : deframe cvs (hintOf s.hint) B = .commit out kind) :
    exec .strip s = .next (committedStrip s kind out) := by
  rw [exec_strip, runStrip_legal hin.1 hin.2, ← hB, hd]
  rfl

theorem exec_strip_crcError {f : Failure} (hd : deframe cvs (hintOf s.hint) B = .crcError f) :
    exec .strip s = .next (failedStrip s .crcError f.cause (BitVec.ofNat 8 f.block) (BitVec.ofNat 16 f.exp)
      (BitVec.ofNat 16 f.act)) := by
  rw [exec_strip, runStrip_legal hin.1 hin.2, ← hB, hd]
  rfl

end

/-! ### The tests before any parsing -/

theorem exec_strip_badHint {s : State} (hlen : s.ilen.toNat ≤ 512) (hh : s.hint = 3) :
    exec .strip s = .next (failedStrip s .unexpectedState .badHint 0 0 3) := by
  rw [exec_strip, runStrip, stripBody, if_neg (show ¬(stripStart s).ilen.toNat > cvs.ibufCap from Nat.not_lt.2 hlen),
    if_pos (show hintOf (stripStart s).hint = .reserved from (hintOf_eq_reserved _).2 hh)]
  rfl

/-- STRIP of an empty input, under every legal hint (rule R112). -/
theorem exec_strip_empty {s : State} (hlen : s.ilen = 0) (hh : s.hint ≠ 3) :
    exec .strip s = .next (failedStrip s .crcError .shortBuffer 0 1 0) := by
  have hd : deframe cvs (hintOf s.hint) (inputFrame s) = .crcError ⟨.shortBuffer, 0, 1, 0⟩ := by
    rw [deframe, if_pos (by rw [inputFrame_length, hlen]; rfl)]
  exact exec_strip_crcError rfl ⟨by simp [hlen], hh⟩ hd

/-- Settles O32: a clause for each of the three tests. -/
theorem stripPreconditions : Obligations.StripPreconditions :=
  fun _ => ⟨exec_strip_badLen, exec_strip_badHint, exec_strip_empty⟩

/-! ### The wired path -/

theorem deframe_wired_fail {B : List Byte} {f : Failure} (h : Hint) (hw : wiredMarkers B)
    (hc : checkWired B = .fail f) : deframe cvs h B = .crcError f := by
  have h0 : ¬B.length = 0 := by have := hw.1; omega
  rw [deframe, if_neg h0, if_pos ((isWired_iff B).2 hw), hc]

/-- The wired path does not consult the hint (rule R113). -/
theorem deframe_wired_hint {B : List Byte} (h h' : Hint) (hw : wiredMarkers B) : deframe cvs h B = deframe cvs h' B := by
  cases hc : checkWired B with
  | ok out => rw [deframe_wired h hw hc, deframe_wired h' hw hc]
  | fail f => rw [deframe_wired_fail h hw hc, deframe_wired_fail h' hw hc]

/-- Settles O33: the first of the three tests that fails is the failure of the wired check, and a frame that passes
them all passes the check. -/
theorem stripWiredFrame : Obligations.StripWiredFrame := by
  intro s B hB hin hw
  have hfail {f : Failure} (hc : checkWired B = .fail f) :=
    exec_strip_crcError hB hin (deframe_wired_fail (hintOf s.hint) hw hc)
  refine ⟨fun hcopies => ?_, fun hcopies hcount => ?_, fun hcopies hcount hsum => ?_, fun hcopies hcount hsum => ?_⟩
  · exact hfail (if_pos hcopies)
  · rw [← ofNat_inputFrame_length s, ← hB]
    exact hfail (by rw [checkWired, if_neg (not_not.2 hcopies), if_pos hcount])
  · rw [← BitVec.ofNat_toNat]
    exact hfail (by rw [checkWired, if_neg (not_not.2 hcopies), if_neg (not_not.2 hcount), if_pos hsum])
  · have hc := checkWired_eq_ok.2 ⟨hcopies, hcount, hsum, rfl⟩
    refine ⟨exec_strip_committed hB hin (deframe_wired _ hw hc), ?_⟩
    rw [range_length_of_le (Nat.sub_le ..)]; omega

/-! ### A wireless frame -/

theorem checkWireless_typeB {B : List Byte} (h : B.length = byteAt B 0 + 1) :
    checkWireless cvs B = (checkTypeB cvs B, .wirelessB) := if_pos h

theorem checkWireless_typeA {B : List Byte} (h : byteAt B 0 + 1 < B.length) :
    checkWireless cvs B = (checkTypeA cvs B, .wirelessA) := if_neg (Nat.ne_of_gt h)

section
variable {B : List Byte} (h : Hint) (hw : ¬wiredMarkers B)
include hw

theorem deframe_of_not_wired (h1 : 1 ≤ B.length) : deframe cvs h B = deframeWireless cvs h B := by
  rw [deframe, if_neg (by omega), if_neg (mt (isWired_iff B).1 hw)]

/-- A wireless buffer shorter than `L + 1` is an error under every hint (rule R114). -/
theorem deframe_short (h1 : 1 ≤ B.length) (hl : B.length < byteAt B 0 + 1) :
    deframe cvs h B = .crcError ⟨.shortBuffer, 0, byteAt B 0 + 1, B.length⟩ := by
  rw [deframe_of_not_wired h hw h1, deframeWireless, expectedLen, if_pos hl]

/-- Hint FALSE bypasses the checks of a wireless frame that is long enough (rule R120). -/
theorem deframe_bypass (hl : byteAt B 0 + 1 ≤ B.length) : deframe cvs .isFalse B = .commit B .wirelessNoCrc := by
  rw [deframe_of_not_wired _ hw (by omega), deframeWireless, expectedLen, if_neg (by omega), if_pos ⟨rfl, rfl⟩]

/-- A failed check ends by the hint: UNKNOWN falls back to the whole input, TRUE is fatal (rules R119 and R121). -/
theorem deframe_wireless_fail {f : Failure} {kind : Kind} (hh : h ≠ .isFalse) (hl : byteAt B 0 + 1 ≤ B.length)
    (hc : checkWireless cvs B = (.fail f, kind)) :
    deframe cvs h B = if h = .unknown then .commit B .wirelessNoCrc else .crcError f := by
  rw [deframe_of_not_wired h hw (by omega), deframeWireless, expectedLen, if_neg (by omega), if_neg (fun hf => hh hf.1),
    hc]

end

section
variable {s : State} {B : List Byte} (hB : B = inputFrame s) (hw : ¬wiredMarkers B)
include hB hw

theorem exec_strip_short (hin : legalInput s) (h1 : 1 ≤ B.length) (hl : B.length < byteAt B 0 + 1) :
    exec .strip s = .next (failedStrip s .crcError .shortBuffer 0 (BitVec.ofNat 16 (byteAt B 0 + 1)) s.ilen) := by
  rw [← ofNat_inputFrame_length s, ← hB]
  exact exec_strip_crcError hB hin (deframe_short _ hw h1 hl)

variable {kind : Kind} (hl : byteAt B 0 + 1 ≤ B.length)
include hl

/-- A wireless frame that passes its check is stripped under hint UNKNOWN and under TRUE (rules R115 and R116). -/
theorem exec_strip_passed {out : List Byte} (hin : legalInput s) (hh : s.hint ≠ 2)
    (hc : checkWireless cvs B = (.ok out, kind)) : exec .strip s = .next (committedStrip s kind out) :=
  exec_strip_committed hB hin (deframe_wireless hw (mt (hintOf_eq_isFalse _).1 hh) hl hc)

/-- Hint TRUE: a failed check is fatal (rule R121). -/
theorem exec_strip_fatal {f : Failure} (hlen : s.ilen.toNat ≤ 512) (hh : s.hint = 1)
    (hc : checkWireless cvs B = (.fail f, kind)) :
    exec .strip s = .next (failedStrip s .crcError f.cause (BitVec.ofNat 8 f.block) (BitVec.ofNat 16 f.exp)
      (BitVec.ofNat 16 f.act)) := by
  have hhint : hintOf s.hint = .isTrue := (hintOf_eq_isTrue _).2 hh
  refine exec_strip_crcError hB ⟨hlen, by simp [hh]⟩ ?_
  rw [hhint, deframe_wireless_fail .isTrue hw (by decide) hl hc, if_neg (by decide)]

/-- Hint UNKNOWN: a failed check falls back to the whole input (rule R119). -/
theorem exec_strip_fallback {f : Failure} (hlen : s.ilen.toNat ≤ 512) (hh : s.hint = 0)
    (hc : checkWireless cvs B = (.fail f, kind)) : exec .strip s = .next (committedStrip s .wirelessNoCrc B) := by
  have hhint : hintOf s.hint = .unknown := (hintOf_eq_unknown _).2 hh
  refine exec_strip_committed hB ⟨hlen, by simp [hh]⟩ ?_
  rw [hhint, deframe_wireless_fail .unknown hw (by decide) hl hc, if_pos rfl]

/-- A block whose CRC differs is reported with both values (rules R115 and R116). -/
theorem exec_strip_mismatch {k : Nat} {c d : Half} (hlen : s.ilen.toNat ≤ 512) (hh : s.hint = 1)
    (hc : checkWireless cvs B = (.fail ⟨.crcMismatch, k, c.toNat, d.toNat⟩, kind)) :
    exec .strip s = .next (failedStrip s .crcError .crcMismatch (BitVec.ofNat 8 k) c d) := by
  simpa using exec_strip_fatal hB hw hl hlen hh hc

end

/-- Settles O34: the length test of a wireless frame precedes what the hint decides. -/
theorem stripShortWireless : Obligations.StripShortWireless :=
  fun _ _ hB hin hw h1 hl => exec_strip_short hB hw hin h1 hl

/-- Settles O38: a failed check of the frame's type is its wireless check, and falls back. -/
theorem stripFallback : Obligations.StripFallback := by
  rintro s B f hB hlen hh hw - (⟨hl, hc⟩ | ⟨hl, hc⟩)
  · exact exec_strip_fallback hB hw hl.ge hlen hh (by rw [checkWireless_typeB hl, hc])
  · exact exec_strip_fallback hB hw hl.le hlen hh (by rw [checkWireless_typeA hl, hc])

/-- Settles O39: the frame's length selects its check, whose failure is fatal and whose output is committed. -/
theorem stripHintTrueIsFatal : Obligations.StripHintTrueIsFatal := by
  intro s B hB hlen hh hw _
  have hin : legalInput s := ⟨hlen, by simp [hh]⟩
  have hne : s.hint ≠ 2 := by simp [hh]
  refine ⟨fun f hl hc => ?_, fun f hl hc => ?_, fun out hl hc => ?_, fun out hl hc => ?_⟩
  · exact exec_strip_fatal hB hw hl.ge hlen hh (by rw [checkWireless_typeB hl, hc])
  · exact exec_strip_fatal hB hw hl.le hlen hh (by rw [checkWireless_typeA hl, hc])
  · exact exec_strip_passed hB hw hl.ge hin hne (by rw [checkWireless_typeB hl, hc])
  · exact exec_strip_passed hB hw hl.le hin hne (by rw [checkWireless_typeA hl, hc])

/-! ### Hint FALSE -/

/-- The start actions and the end of STRIP neither read nor write the hint. -/
theorem endStrip_stripStart_hint (v : Verdict) (s : State) (h : BitVec 2) :
    endStrip v (stripStart { s with hint := h }) = { endStrip v (stripStart s) with hint := h } := by
  cases v <;> rfl

/-- STRIP of a wired frame ends as under any other legal hint (rules R113 and R120). -/
theorem runStrip_wired_hint {s : State} {h : BitVec 2} (hw : wiredMarkers (inputFrame s)) (hlen : s.ilen.toNat ≤ 512)
    (hs : s.hint ≠ 3) (hh : h ≠ 3) : runStrip cvs { s with hint := h } = { runStrip cvs s with hint := h } := by
  have hlegal := runStrip_legal (s := { s with hint := h }) hlen hh
  have hframe : inputFrame { s with hint := h } = inputFrame s := rfl
  rw [hlegal, runStrip_legal hlen hs, hframe, deframe_wired_hint _ (hintOf s.hint) hw, endStrip_stripStart_hint]

/-- Under the STRICT policy hint FALSE is parsed as TRUE (rule R120). -/
theorem deframe_strict {p : Params} (B : List Byte) (hp : p.hintFalsePolicy = .strict) :
    deframe p .isFalse B = deframe p .isTrue B := by
  have hwireless : deframeWireless p .isFalse B = deframeWireless p .isTrue B := by
    simp [deframeWireless, hp]
  rw [deframe, deframe, hwireless]

/-- Settles O35: a clause for each way a frame ends under hint FALSE, the wired one with the verdict of TRUE. -/
theorem stripHintFalse : Obligations.StripHintFalse := by
  refine ⟨fun s B hB hlen hh hw _ hl => ?_, fun s hh h0 => ?_, fun s B hB hlen hh hw hl h1 => ?_,
    fun s t B hB hw hlen hh ht s' hs' => ?_, fun p B hp => deframe_strict B hp⟩
  · refine exec_strip_committed hB ⟨hlen, by simp [hh]⟩ ?_
    rw [(hintOf_eq_isFalse _).2 hh, deframe_bypass hw hl]
  · exact exec_strip_empty h0 (by simp [hh])
  · exact exec_strip_short hB hw ⟨hlen, by simp [hh]⟩ h1 hl
  · subst hB ht
    cases hs'
    exact congrArg _ (runStrip_wired_hint hw hlen (by simp [hh]) (by decide))

/-! ### Type B -/

section
variable {B : List Byte} {block a len b : Nat} (hb : b = a + (len - 2)) (hlen : 3 ≤ len)
include hb hlen

/-- A block of Type B whose CRC agrees gives its data (rule R115). -/
theorem checkBlockB_passed (hcrc : crc16 cvs (range B a b) = storedCrc cvs B b) :
    checkBlockB cvs B block a len = .ok (range B a b) := by
  subst hb
  exact checkBlockB_eq_ok.2 ⟨hlen, checkBlock_eq_ok.2 ⟨hcrc, rfl⟩⟩

/-- A block of Type B whose CRC differs (rule R115). -/
theorem checkBlockB_mismatch (hcrc : crc16 cvs (range B a b) ≠ storedCrc cvs B b) :
    checkBlockB cvs B block a len =
      .fail ⟨.crcMismatch, block, (crc16 cvs (range B a b)).toNat, (storedCrc cvs B b).toNat⟩ := by
  subst hb
  exact checkBlockB_eq_fail.2 (.inr ⟨hlen, checkBlock_eq_fail.2 ⟨hcrc, rfl⟩⟩)

end

theorem checkBlockB_short {B : List Byte} {block a len : Nat} (h : len < 3) :
    checkBlockB cvs B block a len = .fail ⟨.shortBlock, block, 3, len⟩ := if_pos h

/-- Block 1 is checked first (rule R115). -/
theorem checkTypeB_fail_block1 {B : List Byte} {f : Failure}
    (h : checkBlockB cvs B 1 0 (min B.length 128) = .fail f) : checkTypeB cvs B = .fail f :=
  Check.andThen_eq_fail.2 (.inl h)

/-- Block 2 is checked when block 1 has passed (rule R115). -/
theorem checkTypeB_fail_block2 {B : List Byte} {f : Failure} (hlong : 128 < B.length)
    (h1 : crc16 cvs (range B 0 126) = storedCrc cvs B 126)
    (h2 : checkBlockB cvs B 2 128 (B.length - 128) = .fail f) : checkTypeB cvs B = .fail f := by
  have hfirst : checkBlockB cvs B 1 0 (min B.length 128) = .ok (range B 0 126) := by
    rw [Nat.min_eq_right hlong.le]
    exact checkBlockB_passed (by decide) (by decide) h1
  refine Check.andThen_eq_fail.2 (.inr ⟨_, hfirst, ?_⟩)
  rw [cvs_bBlock1, if_pos hlong]
  exact Check.andThen_eq_fail.2 (.inl h2)

/-- Settles O36: the first block that is short or differs is the failure of the check, and a frame whose blocks agree
passes it. -/
theorem stripTypeB : Obligations.StripTypeB := by
  rintro s B _ hB hin hw - hl rfl
  have hfatal {f : Failure} (hh : s.hint = 1) (hc : checkTypeB cvs B = .fail f) :=
    exec_strip_fatal hB hw hl.ge hin.1 hh ((checkWireless_typeB hl).trans (by rw [hc]))
  have hmismatch {k : Nat} {c d : Half} (hh : s.hint = 1)
      (hc : checkTypeB cvs B = .fail ⟨.crcMismatch, k, c.toNat, d.toNat⟩) :=
    exec_strip_mismatch hB hw hl.ge hin.1 hh ((checkWireless_typeB hl).trans (by rw [hc]))
  have hpassed {out : List Byte} (hh : s.hint ≠ 2) (hc : checkTypeB cvs B = .ok out) :=
    exec_strip_passed hB hw hl.ge hin hh ((checkWireless_typeB hl).trans (by rw [hc]))
  refine ⟨fun hh hlt => ?_, fun hh hle hcrc => ?_, fun hh hle hcrc hone => ?_, fun hh h1 hlong hlt => ?_,
    fun hh h1 hle h2 => ?_, fun hh h1 hle h2 => ?_⟩
  · exact hfatal hh (checkTypeB_fail_block1 (checkBlockB_short hlt))
  · exact hmismatch hh (checkTypeB_fail_block1 (checkBlockB_mismatch (Nat.zero_add _).symm hle hcrc))
  · exact hpassed hh (checkTypeB_eq_ok.2 ⟨hle, hcrc, .inl ⟨hone, rfl⟩⟩)
  · exact hfatal hh (checkTypeB_fail_block2 hlong h1 (checkBlockB_short (by omega)))
  · exact hmismatch hh (checkTypeB_fail_block2 (by omega) h1 (checkBlockB_mismatch (by omega) (by omega) h2))
  · have hmin : min B.length 128 - 2 = 126 := by omega
    exact hpassed hh (checkTypeB_eq_ok.2 ⟨by omega, by rw [hmin]; exact h1, .inr ⟨hle, h2, rfl⟩⟩)

/-! ### Type A -/

/-- Settles O37: the tests of rule R116 in order are the failures of the check, and a frame whose blocks agree passes
it with their data. -/
theorem stripTypeA : Obligations.StripTypeA := by
  rintro s B _ _ _ a n hB hin hw - rfl hl rfl rfl ha hn
  obtain rfl : a = offsetA := funext ha
  obtain rfl : n = lengthA (byteAt B 0 - 9) := funext hn
  have hfatal {f : Failure} (hh : s.hint = 1) (hc : checkTypeA cvs B = .fail f) :=
    exec_strip_fatal hB hw hl.le hin.1 hh ((checkWireless_typeA hl).trans (by rw [hc]))
  refine ⟨fun hh hlt => ?_, fun hh hle hlt => ?_, fun k hh hle hT hk hprev hcrc => ?_, fun hh hle hT hcrc => ⟨?_, ?_⟩⟩
  · exact hfatal hh (checkTypeA_eq_fail.2 (.inl ⟨hlt, rfl⟩))
  · rw [← ofNat_inputFrame_length s, ← hB]
    exact hfatal hh (checkTypeA_eq_fail.2 (.inr (.inl ⟨hle, hlt, rfl⟩)))
  · have hc := checkTypeA_eq_fail.2 (.inr (.inr ⟨hle, hT, k, hk, hprev, hcrc, rfl⟩))
    exact exec_strip_mismatch hB hw hl.le hin.1 hh ((checkWireless_typeA hl).trans (by rw [hc]; rfl))
  · have hc := checkTypeA_eq_ok.2 ⟨hle, hT, hcrc, rfl⟩
    exact exec_strip_passed hB hw hl.le hin hh ((checkWireless_typeA hl).trans (by rw [hc]; rfl))
  · refine (flatMap_dataA_length (d := byteAt B 0 - 9) le_rfl (by omega)).trans ?_
    omega

end Sys2Proof.Machine
end

section
/-! PROOF. What a committed STRIP leaves in `OBUF`: how long the output of each kind is, and the input byte that each of
its bytes copies (rules R113 and R115 to R118). -/

namespace Sys2Proof.Machine

open Sys2Proof.Reference

/-! ### The output of a committed frame, by kind -/

/-- The input offset that output byte `i` of a frame of kind `k` comes from: the CRCs before it are skipped (rule R117). -/
def inputOffset (k : Kind) (i : Nat) : Nat :=
  match k with
  | .wirelessA => if i < 10 then i else i + 2 + 2 * ((i - 10) / 16)
  | .wirelessB => if i < 126 then i else i + 2
  | .none | .wired | .wirelessNoCrc => i

/-- The output length of a frame `B` of kind `k` (rule R117). -/
def strippedLen (B : List Byte) (k : Kind) : Nat :=
  match k with
  | .wired => B.length - 2
  | .wirelessA => byteAt B 0 + 1
  | .wirelessB => B.length - (if B.length ≤ 128 then 2 else 4)
  | .none | .wirelessNoCrc => B.length

/-- The output `out` is what rules R117 and R118 say of a frame `B` of kind `k`. -/
structure StripsTo (B : List Byte) (k : Kind) (out : List Byte) : Prop where
  pos : 1 ≤ out.length
  length_eq : out.length = strippedLen B k
  copies : ∀ i, i < out.length → out[i]? = B[inputOffset k i]?
  typeB_length : k = .wirelessB → B.length = byteAt B 0 + 1

@[simp] theorem inputOffset_zero (k : Kind) : inputOffset k 0 = 0 := by cases k <;> rfl

theorem range_zero_getElem? {B : List Byte} {b i : Nat} (h : i < b) : (range B 0 b)[i]? = B[i]? := by
  rw [range_getElem?, Nat.sub_zero, if_pos h, Nat.zero_add]

theorem stripsTo_whole {B : List Byte} (h : 1 ≤ B.length) : StripsTo B .wirelessNoCrc B where
  pos := h
  length_eq := rfl
  copies := fun _ _ => rfl
  typeB_length := by simp

theorem checkWired_stripsTo {B out : List Byte} (hc : checkWired B = .ok out) : StripsTo B .wired out := by
  obtain ⟨-, hcount, -, rfl⟩ := checkWired_eq_ok.1 hc
  have hlen : (range B 0 (B.length - 2)).length = B.length - 2 := range_length_of_le (Nat.sub_le ..)
  exact {
    pos := by omega
    length_eq := hlen
    copies := fun i hi => range_zero_getElem? (hlen ▸ hi)
    typeB_length := by simp }

theorem checkTypeB_stripsTo {B out : List Byte} (hl : B.length = byteAt B 0 + 1) (hc : checkTypeB cvs B = .ok out) :
    StripsTo B .wirelessB out := by
  obtain ⟨hmin, -, ⟨hone, rfl⟩ | ⟨htwo, -, rfl⟩⟩ := checkTypeB_eq_ok.1 hc
  · have hlen : (range B 0 (B.length - 2)).length = B.length - 2 := range_length_of_le (Nat.sub_le ..)
    exact {
      pos := by omega
      length_eq := by rw [strippedLen, if_pos hone, hlen]
      copies := fun i hi => by rw [range_zero_getElem? (hlen ▸ hi), inputOffset, if_pos (by omega)]
      typeB_length := fun _ => hl }
  · have h1 : (range B 0 126).length = 126 := range_length_of_le (by omega)
    have h2 : (range B 128 (B.length - 2)).length = B.length - 130 := by
      rw [range_length_of_le (Nat.sub_le ..)]; omega
    refine { pos := ?_, length_eq := ?_, copies := fun i hi => ?_, typeB_length := fun _ => hl }
    · rw [List.length_append]; omega
    · rw [strippedLen, if_neg (by omega), List.length_append]; omega
    · rw [List.length_append] at hi
      rw [inputOffset]
      split
      · rw [List.getElem?_append_left (by omega), range_zero_getElem? (by omega)]
      · rw [List.getElem?_append_right (by omega), range_getElem?, if_pos (by omega), h1,
          show 128 + (i - 126) = i + 2 by omega]

/-- The data of the first `m + 1` blocks of a Type A frame, byte by byte: the CRCs before a byte are skipped. -/
theorem flatMap_dataA_getElem? {B : List Byte} {d m i : Nat} (hm : m ≤ (d + 15) / 16)
    (hB : d + 12 + 2 * ((d + 15) / 16) ≤ B.length) (hi : i < 10 + min d (16 * m)) :
    ((List.range (m + 1)).flatMap (dataA B d))[i]? = B[inputOffset .wirelessA i]? := by
  induction m with
  | zero =>
    have h10 : i < 10 := by omega
    rw [Nat.zero_add, List.range_one, List.flatMap_singleton, dataA, inputOffset, if_pos h10]
    exact range_zero_getElem? h10
  | succ m ih =>
    have hlen := flatMap_dataA_length (m := m) (by omega) hB
    rw [List.range_succ, List.flatMap_append, List.flatMap_singleton]
    by_cases hlt : i < 10 + min d (16 * m)
    · rw [List.getElem?_append_left (by omega), ih (by omega) hlt]
    · have hblock : (i - 10) / 16 = m := by omega
      rw [List.getElem?_append_right (by omega), hlen, dataA, range_getElem?, offsetA, lengthA,
        if_neg (Nat.succ_ne_zero m), if_neg (Nat.succ_ne_zero m), if_pos (by omega), inputOffset, if_neg (by omega),
        hblock]
      congr 1
      omega

theorem checkTypeA_stripsTo {B out : List Byte} (hc : checkTypeA cvs B = .ok out) : StripsTo B .wirelessA out := by
  obtain ⟨h9, hT, -, rfl⟩ := checkTypeA_eq_ok.1 hc
  have hT' : byteAt B 0 - 9 + 12 + 2 * ((byteAt B 0 - 9 + 15) / 16) ≤ B.length := by
    rw [blocksOfA] at hT; omega
  have hlen := flatMap_dataA_length (m := blocksOfA (byteAt B 0)) le_rfl hT'
  have hall : 10 + min (byteAt B 0 - 9) (16 * blocksOfA (byteAt B 0)) = byteAt B 0 + 1 := by
    rw [blocksOfA]; omega
  exact {
    pos := by omega
    length_eq := hlen.trans hall
    copies := fun i hi => flatMap_dataA_getElem? le_rfl hT' (hlen ▸ hi)
    typeB_length := by simp }

/-- Whatever the hint, a committed output is what its kind says (rules R117 and R118). -/
theorem deframe_stripsTo {h : Hint} {B out : List Byte} {k : Kind} (hd : deframe cvs h B = .commit out k) :
    StripsTo B k out := by
  obtain ⟨-, he⟩ | ⟨-, -, ⟨o, hc, he⟩ | ⟨f, -, he⟩⟩ | ⟨h1, -, ⟨-, he⟩ | ⟨-, ⟨-, he⟩ | ⟨-, hchecked⟩⟩⟩ := deframe_cases h B
  · rw [he] at hd; cases hd
  · rw [he] at hd; cases hd; exact checkWired_stripsTo hc
  · rw [he] at hd; cases hd
  · rw [he] at hd; cases hd
  · rw [he] at hd; cases hd; exact stripsTo_whole h1
  · obtain ⟨o, hl, hc, he⟩ | ⟨o, -, hc, he⟩ | ⟨f, -, ⟨-, he⟩ | ⟨-, he⟩⟩ := hchecked
    · rw [he] at hd; cases hd; exact checkTypeB_stripsTo hl hc
    · rw [he] at hd; cases hd; exact checkTypeA_stripsTo hc
    · rw [he] at hd; cases hd; exact stripsTo_whole h1
    · rw [he] at hd; cases hd

/-! ### The committed state -/

theorem inputFrame_getElem? (s : State) (i : Nat) :
    (inputFrame s)[i]? = if i < s.ilen.toNat then some (bufByte s .ibuf i) else none := by
  rw [inputFrame, bufRange_getElem?, Nat.sub_zero, Nat.zero_add]

theorem byteAt_inputFrame {s : State} {i : Nat} (h : i < s.ilen.toNat) :
    byteAt (inputFrame s) i = (bufByte s .ibuf i).toNat := by
  rw [byteAt, List.getD_eq_getElem?_getD, inputFrame_getElem?, if_pos h, Option.getD_some]

/-- A byte of the committed output is the input byte it copies (rule R118). -/
theorem bufByte_commit_inputOffset {s : State} {k : Kind} {out : List Byte} (h : StripsTo (inputFrame s) k out) {i : Nat}
    (hi : i < out.length) :
    inputOffset k i < s.ilen.toNat ∧
      bufByte (commit out k (stripStart s)) .obuf i = bufByte s .ibuf (inputOffset k i) := by
  have hcopy := h.copies i hi
  rw [inputFrame_getElem?, List.getElem?_eq_getElem hi] at hcopy
  split at hcopy
  · rename_i hlt
    refine ⟨hlt, ?_⟩
    rw [bufByte_commit hi, List.getD_eq_getElem _ _ hi]
    exact Option.some.inj hcopy
  · cases hcopy

/-- A STRIP that leaves a frame has committed the output of the frame's kind (rules R110 and R117). -/
theorem exec_strip_ovalid {s t : State} (h : exec .strip s = .next t) (hv : t.ovalid = true) :
    ∃ out k, t = commit out k (stripStart s) ∧ StripsTo (inputFrame s) k out ∧ t.olen.toNat = out.length ∧
      out.length ≤ s.ilen.toNat ∧ s.ilen.toNat ≤ 512 ∧ k ≠ .none := by
  cases h
  obtain ⟨k, f, he, -⟩ | ⟨out, k, he, h512, -, hle, hk, hd⟩ := runStrip_cases s
  · simp [he] at hv
  · refine ⟨out, k, he, deframe_stripsTo hd, ?_, hle, h512, hk⟩
    rw [he, commit_olen, BitVec.toNat_ofNat, Nat.mod_eq_of_lt (by omega)]

/-- Settles O41: the length and the copied offsets of the frame's kind. -/
theorem stripOutputByKind : Obligations.StripOutputByKind := by
  intro s t h hv
  obtain ⟨out, k, rfl, hout, holen, hle, h512, hk⟩ := exec_strip_ovalid h hv
  have hpos := hout.pos
  have hlen := hout.length_eq
  have hcopy : ∀ i, i < (commit out k (stripStart s)).olen.toNat →
      bufByte (commit out k (stripStart s)) .obuf i = bufByte s .ibuf (inputOffset k i) := fun i hi =>
    (bufByte_commit_inputOffset hout (holen ▸ hi)).2
  refine ⟨rfl, rfl, rfl, rfl, holen.trans_le hle, h512, hk, ?_, ?_, ?_, ?_⟩
  · rintro rfl
    rw [strippedLen, inputFrame_length] at hlen
    exact ⟨by omega, hcopy⟩
  · rintro rfl
    rw [strippedLen, byteAt_inputFrame (by omega)] at hlen
    exact ⟨holen.trans hlen, hcopy⟩
  · rintro rfl
    rw [strippedLen, inputFrame_length] at hlen
    exact ⟨by rw [holen]; omega, hcopy⟩
  · rintro rfl
    rw [strippedLen, inputFrame_length] at hlen
    exact ⟨BitVec.eq_of_toNat_eq (holen.trans hlen), hcopy⟩

/-- A successful LLDEC of a wireless frame at `CURSOR = 0` reports the frame's first byte as the L-field (rule R141). -/
theorem runLldec_length {s : State} (hk : s.kind ≠ .wired) (hc : s.cursor = 0) (hv : (runLldec cvs s).llvalid = true) :
    (runLldec cvs s).ll.length = bufByte s .obuf 0 := by
  have hw : windowLen cvs s.kind = 10 := by rw [windowLen_cvs, if_neg hk]
  obtain ⟨-, he⟩ | ⟨-, -, he⟩ | ⟨-, -, he⟩ := runLldec_cases s
  · simp [he] at hv
  · simp [he] at hv
  · have hwindow : ∀ W, decodeWindow s.kind W = decodeWireless W := fun W => by
      cases hkind : s.kind with
      | wired => exact absurd hkind hk
      | _ => rfl
    rw [he, finish_ll, hwindow, hw, hc]
    exact bufRange_getD (lo := 0) (hi := 10) (k := 0) (by decide)

/-- Settles O40: a committed byte is the input byte at its offset, which for the first byte is the first. -/
theorem stripCopiesInputBytes : Obligations.StripCopiesInputBytes := by
  intro s t h hv
  obtain ⟨-, -, -, -, -, -, -, -, htypeA, htypeB, -⟩ := stripOutputByKind s t h hv
  obtain ⟨out, k, rfl, hout, holen, hle, -⟩ := exec_strip_ovalid h hv
  have hpos := hout.pos
  have hfirst : bufByte (commit out k (stripStart s)) .obuf 0 = bufByte s .ibuf 0 := by
    simpa using (bufByte_commit_inputOffset hout hpos).2
  refine ⟨fun i hi => ⟨_, bufByte_commit_inputOffset hout (holen ▸ hi)⟩, holen ▸ hpos, hfirst,
    fun hk => (htypeA hk).1, ?_⟩
  rintro rfl
  refine ⟨?_, fun u hu hllv => ?_⟩
  · obtain ⟨hlen, -⟩ := htypeB rfl
    have hL := hout.typeB_length rfl
    rw [inputFrame_length, byteAt_inputFrame (by omega)] at hL
    split at hlen
    · exact .inl (by omega)
    · exact .inr (by omega)
  · cases hu
    rw [runLldec_length (by simp) rfl hllv, hfirst]

end Sys2Proof.Machine
end

section
/-! PROOF. What a STRIP leaves where it leaves no frame, what it leaves unchanged, what its outcome depends on, and that
nothing but STRIP and reset changes its results (rules R110, R122, R124, R126). -/

namespace Sys2Proof.Machine

open Sys2Proof.Reference

/-! ### The bytes past the output -/

/-- An offset of `OBUF` that nothing has written since the start of STRIP is a fresh free value (rules R27 and R124). -/
theorem bufByte_obuf_unlisted {s t : State} {i : Nat} (hg : t.obufGen = s.obufGen + 1) (hc : cellAt t.obuf i = none) :
    bufByte t .obuf i = Config.unspecifiedByte .obuf (s.obufGen + 1) i := by
  simp only [bufByte, bufCells, unlistedByte, bufGen, hg, hc, Option.getD_none]

/-- Settles O42: an error leaves the state as the start actions cleared it, a commit raises none. -/
theorem failedStripLeavesNoFrame : Obligations.FailedStripLeavesNoFrame := by
  rintro s t ⟨-, -, herr, -⟩ h
  cases h
  obtain ⟨k, f, he, -, hk⟩ | ⟨out, k, he, -⟩ := runStrip_cases s <;> rw [he]
  · exact ⟨by simp, fun _ => ⟨rfl, rfl, rfl, rfl, rfl, hk, fun i => bufByte_obuf_unlisted rfl rfl⟩⟩
  · exact ⟨by simp [herr], fun h => by simp [herr] at h⟩

/-- Past `OLEN` nothing of `OBUF` is written (rule R27). -/
theorem runStrip_bufByte_past (s : State) {j : Nat} (hj : (runStrip cvs s).olen.toNat ≤ j) :
    bufByte (runStrip cvs s) .obuf j = Config.unspecifiedByte .obuf (s.obufGen + 1) j := by
  obtain ⟨k, f, he, -⟩ | ⟨out, k, he, h512, -, hle, -⟩ := runStrip_cases s
  · rw [he]
    exact bufByte_obuf_unlisted rfl rfl
  · rw [he, commit_olen, BitVec.toNat_ofNat, Nat.mod_eq_of_lt (by omega)] at hj
    rw [he]
    exact bufByte_obuf_unlisted rfl (by rw [commit_obuf, cellAt_cellsFrom_zero, List.getElem?_eq_none hj])

/-- Settles O43: the operations' common frame, and what an error and a commit leave of the rest. -/
theorem stripFrame : Obligations.StripFrame := by
  intro s t h
  obtain ⟨hhint, hilen, harg0, harg1, -⟩ := exec_keeps_inputs h
  have hbytes := exec_bufByte_ibuf h
  cases h
  obtain ⟨hcmd, hresult, hscript, hread⟩ : (runStrip cvs s).cmd = s.cmd ∧ (runStrip cvs s).result = s.result ∧
      (runStrip cvs s).script = s.script ∧ (runStrip cvs s).readData = s.readData := by
    obtain ⟨k, f, he, -⟩ | ⟨out, k, he, -⟩ := runStrip_cases s <;> rw [he] <;> exact ⟨rfl, rfl, rfl, rfl⟩
  exact ⟨hcmd, hhint, hilen, harg0, harg1, hresult, hscript, hread, hbytes, fun j => runStrip_bufByte_past s⟩

/-! ### What the outcome of STRIP depends on -/

/-- Two STRIP operations ended alike: the same frame and the same report (rule R126). -/
def SameStrip (s t : State) : Prop :=
  s.olen = t.olen ∧ s.kind = t.kind ∧ s.ovalid = t.ovalid ∧ s.err = t.err ∧ s.errKind = t.errKind ∧
    s.errCause = t.errCause ∧ s.errBlock = t.errBlock ∧ s.errExp = t.errExp ∧ s.errAct = t.errAct ∧
    ∀ i, i < s.olen.toNat → bufByte s .obuf i = bufByte t .obuf i

theorem failedStrip_sameStrip (s t : State) (kind : ErrKind) (cause : Cause) (block : Byte) (exp act : Half) :
    SameStrip (failedStrip s kind cause block exp act) (failedStrip t kind cause block exp act) :=
  ⟨rfl, rfl, rfl, rfl, rfl, rfl, rfl, rfl, rfl, fun _ hi => absurd hi (Nat.not_lt_zero _)⟩

section
variable {s t : State} (hs : started s) (ht : started t)
include hs ht

/-- Started operations that commit one output end alike: neither has an error to report (rules R60 and R163). -/
theorem committedStrip_sameStrip (kind : Kind) (out : List Byte) :
    SameStrip (committedStrip s kind out) (committedStrip t kind out) := by
  obtain ⟨-, -, herr, hkind, hcause, hblock, hexp, hact⟩ := hs
  obtain ⟨-, -, herr', hkind', hcause', hblock', hexp', hact'⟩ := ht
  refine ⟨rfl, rfl, rfl, herr.trans herr'.symm, hkind.trans hkind'.symm, hcause.trans hcause'.symm,
    hblock.trans hblock'.symm, hexp.trans hexp'.symm, hact.trans hact'.symm, fun i hi => ?_⟩
  have hlt : i < out.length := by
    rw [committedStrip, BitVec.toNat_ofNat] at hi
    exact hi.trans_le (Nat.mod_le ..)
  have hbyte (u : State) : bufByte (committedStrip u kind out) .obuf i = out.getD i 0 :=
    bufByte_commit (k := kind) (s := stripStart u) hlt
  rw [hbyte, hbyte]

/-- STRIP reads `ILEN`, `HINT` and the input frame only, through each way it can end. -/
theorem exec_strip_sameStrip (hlen : s.ilen = t.ilen) (hhint : s.hint = t.hint)
    (hframe : inputFrame s = inputFrame t) :
    ∃ s' t', exec .strip s = .next s' ∧ exec .strip t = .next t' ∧ SameStrip s' t' := by
  by_cases hl : s.ilen.toNat > 512
  · refine ⟨_, _, exec_strip_badLen hl, exec_strip_badLen (hlen ▸ hl), ?_⟩
    rw [hlen]
    exact failedStrip_sameStrip ..
  by_cases hh : s.hint = 3
  · exact ⟨_, _, exec_strip_badHint (by omega) hh, exec_strip_badHint (by rw [← hlen]; omega) (hhint ▸ hh),
      failedStrip_sameStrip ..⟩
  have hin : legalInput s := ⟨by omega, hh⟩
  have hin' : legalInput t := ⟨hlen ▸ hin.1, hhint ▸ hh⟩
  have hverdict : deframe cvs (hintOf t.hint) (inputFrame t) = deframe cvs (hintOf s.hint) (inputFrame s) := by
    rw [hhint, hframe]
  cases hd : deframe cvs (hintOf s.hint) (inputFrame s) with
  | commit out kind =>
    exact ⟨_, _, exec_strip_committed rfl hin hd, exec_strip_committed rfl hin' (hverdict.trans hd),
      committedStrip_sameStrip hs ht kind out⟩
  | crcError f =>
    exact ⟨_, _, exec_strip_crcError rfl hin hd, exec_strip_crcError rfl hin' (hverdict.trans hd),
      failedStrip_sameStrip ..⟩

end

/-- Settles O44: equal bytes below `ILEN` are equal input frames. -/
theorem stripDependsOnItsInputsOnly : Obligations.StripDependsOnItsInputsOnly := by
  intro s t hs ht hlen hhint hbytes
  have hframe : inputFrame s = inputFrame t := by
    rw [inputFrame, inputFrame, ← hlen]
    exact bufRange_congr fun i _ hi => hbytes i hi
  exact exec_strip_sameStrip hs ht hlen hhint hframe

/-! ### The output stays until the next STRIP or reset -/

/-- The output registers and all that `OBUF` reads from are the same in two states (rule R122). -/
def SameOutput (s t : State) : Prop :=
  t.olen = s.olen ∧ t.kind = s.kind ∧ t.ovalid = s.ovalid ∧ t.obuf = s.obuf ∧ t.obufGen = s.obufGen

theorem exec_sameOutput {i : Instr} {s t : State} (hi : i ≠ .strip) (h : exec i s = .next t) : SameOutput s t := by
  cases i with
  | strip => exact absurd rfl hi
  | lldec =>
    cases h
    obtain ⟨-, he⟩ | ⟨-, -, he⟩ | ⟨-, -, he⟩ := runLldec_cases s <;> rw [he] <;> exact ⟨rfl, rfl, rfl, rfl, rfl⟩
  | crc16 b => rw [exec_crc16_or_mfr_frame (.inr ⟨b, rfl⟩) h]; exact ⟨rfl, rfl, rfl, rfl, rfl⟩
  | mfr => rw [exec_crc16_or_mfr_frame (.inl rfl) h]; exact ⟨rfl, rfl, rfl, rfl, rfl⟩

/-- The block's turn changes the output only by running a STRIP. -/
theorem blockTurn_sameOutput {s t : State} (hne : ¬(s.busy = true ∧ decode s.cmd = .ok .strip))
    (h : blockTurn s = .next t) : SameOutput s t := by
  obtain ⟨-, rfl⟩ | ⟨hb, ⟨i, hd, he⟩ | ⟨-, rfl⟩⟩ := blockTurn_cases h
  · exact ⟨rfl, rfl, rfl, rfl, rfl⟩
  · exact exec_sameOutput (fun hi => hne ⟨hb, hi ▸ hd⟩) he
  · exact ⟨rfl, rfl, rfl, rfl, rfl⟩

/-- No host access changes the output (rules R12, R18 and R27). -/
theorem hostAccess_sameOutput {a : Access} {s t : State} (h : hostAccess cvs a s = .next t) : SameOutput s t := by
  obtain ⟨d, n, rfl⟩ | rfl | ⟨-, ⟨r, v, _, -, -, -, rfl⟩ | ⟨i, v, -, -, rfl⟩⟩ := hostAccess_cases h
  · exact ⟨rfl, rfl, rfl, rfl, rfl⟩
  · exact ⟨rfl, rfl, rfl, rfl, rfl⟩
  · exact ⟨writeReg_olen r v s, writeReg_kind r v s, writeReg_ovalid r v s, writeReg_obuf r v s, writeReg_obufGen r v s⟩
  · exact ⟨rfl, rfl, rfl, rfl, rfl⟩

/-- A step that neither takes a reset nor runs a STRIP keeps the output (rule R122). -/
theorem step_sameOutput {s t : State} (h : step s = .next t) (hreset : ∀ rest, s.script ≠ .reset :: rest)
    (hne : ¬(s.busy = true ∧ decode s.cmd = .ok .strip ∧ (s.script = [] ∨ ∃ rest, s.script = .block :: rest))) :
    SameOutput s t := by
  obtain ⟨hs, hb⟩ | ⟨rest, ⟨hs, hb⟩ | ⟨a, -, ha⟩ | ⟨hs, -⟩⟩ := step_cases h
  · exact blockTurn_sameOutput (fun ⟨hbusy, hd⟩ => hne ⟨hbusy, hd, .inl hs⟩) hb
  · exact blockTurn_sameOutput (s := { s with script := rest })
      (fun ⟨hbusy, hd⟩ => hne ⟨hbusy, hd, .inr ⟨rest, hs⟩⟩) hb
  · exact hostAccess_sameOutput (s := { s with script := rest }) ha
  · exact absurd hs (hreset rest)

/-- Settles O48: the output's cells and generation are what `OBUF` reads from, and STRIP keeps `IBUF` as every
operation does. -/
theorem outputChangesOnlyByStripOrReset : Obligations.OutputChangesOnlyByStripOrReset := by
  refine ⟨fun s t h hreset hne => ?_, fun s t h => exec_bufByte_ibuf h⟩
  obtain ⟨holen, hkind, hovalid, hcells, hgen⟩ := step_sameOutput h hreset hne
  exact ⟨holen, hkind, hovalid, bufByte_congr (b := .obuf) hcells hgen⟩

end Sys2Proof.Machine
end

section
/-! PROOF. The link layer: the manufacturer's character codes and operation MFR (rules R145 and R146), and operation
LLDEC: its outcomes, the fields it decodes, what they depend on and what it leaves unchanged (rules R140 to R144, R147). -/

namespace Sys2Proof.Machine

open Sys2Proof.Reference

/-! ### The manufacturer's character codes -/

/-- The three codes by the shifts and masks of rule R145. -/
theorem mfrCodes_eq_fields (v : Half) :
    mfrCodes v = ((v.toNat >>> 10) + 64, ((v.toNat >>> 5) &&& 0x1F) + 64, (v.toNat &&& 0x1F) + 64) := by
  have hmask (n : Nat) : n &&& 0x1F = n % 2 ^ 5 := Nat.and_two_pow_sub_one_eq_mod n 5
  simp only [mfrCodes, hmask, Nat.shiftRight_eq_div_pow]

theorem pack3_mfrCodes (v : Half) :
    pack3 (mfrCodes v) = (v.toNat >>> 10) + 64 + 2 ^ 8 * (((v.toNat >>> 5) &&& 0x1F) + 64) +
      2 ^ 16 * ((v.toNat &&& 0x1F) + 64) := by
  rw [mfrCodes_eq_fields, pack3]

/-- The first code is not masked, so bit 15 reaches it; the others keep five bits (rule R145). -/
theorem mfrCodes_bounds (v : Half) :
    64 ≤ (mfrCodes v).1 ∧ (mfrCodes v).1 ≤ 127 ∧ 64 ≤ (mfrCodes v).2.1 ∧ (mfrCodes v).2.1 ≤ 95 ∧
      64 ≤ (mfrCodes v).2.2 ∧ (mfrCodes v).2.2 ≤ 95 ∧ (0x8000 ≤ v.toNat → 96 ≤ (mfrCodes v).1) := by
  have hv : v.toNat < 2 ^ 16 := v.isLt
  simp only [mfrCodes]
  omega

/-- Settles O20: the fields, their bounds, and the worked examples. -/
theorem manufacturerCodes : Obligations.ManufacturerCodes :=
  ⟨mfrCodes_eq_fields, mfrCodes_bounds, by decide, by decide, by decide⟩

/-- Settles O21: MFR ends without error, and `RESULT` holds the packed codes. -/
theorem mfrResult : Obligations.MfrResult := by
  intro s
  rw [exec_mfr, runMfr, pack3_mfrCodes]
  rfl

/-! ### The outcomes of LLDEC -/

theorem decodeWindow_wireless {k : Kind} (hk : k ≠ .wired) (W : List Byte) : decodeWindow k W = decodeWireless W := by
  cases k with
  | wired => exact absurd rfl hk
  | _ => rfl

/-- The window and its decoding, by the two lengths of rule R140. -/
theorem decodeWindow_bufRange (k : Kind) (s : State) (c : Nat) :
    decodeWindow k (bufRange s .obuf c (c + windowLen cvs k)) =
      if k = .wired then decodeWired (bufRange s .obuf c (c + 6)) else decodeWireless (bufRange s .obuf c (c + 10)) := by
  by_cases hk : k = .wired
  · rw [if_pos hk, hk]; rfl
  · rw [if_neg hk, decodeWindow_wireless hk, windowLen_cvs, if_neg hk]

section
variable {s : State}

theorem runLldec_noFrame (hv : s.ovalid = false) :
    runLldec cvs s = raiseError .unexpectedState ⟨.noFrame, 0, 0, 0⟩ (lldecStart s) := by
  simpa [hv] using runLldec_cases s

variable (hv : s.ovalid = true)
include hv

theorem runLldec_short (hlen : s.cursor.toNat + windowLen cvs s.kind > s.olen.toNat) :
    runLldec cvs s = raiseError .crcError
      ⟨.shortBuffer, 0, s.cursor.toNat + windowLen cvs s.kind, s.olen.toNat⟩ (lldecStart s) := by
  simpa [hv, hlen, Nat.not_le.2 hlen] using runLldec_cases s

theorem runLldec_decoded (hlen : s.cursor.toNat + windowLen cvs s.kind ≤ s.olen.toNat) :
    runLldec cvs s = finish { lldecStart s with
      ll := decodeWindow s.kind (bufRange s .obuf s.cursor.toNat (s.cursor.toNat + windowLen cvs s.kind))
      llvalid := true, cursor := BitVec.ofNat 16 (s.cursor.toNat + windowLen cvs s.kind) } := by
  simpa [hv, hlen, Nat.not_lt.2 hlen] using runLldec_cases s

end

/-- Settles O27, a clause for each outcome. -/
theorem lldecOutcomes : Obligations.LldecOutcomes := by
  intro s w hw
  rw [← windowLen_cvs] at hw
  subst hw
  rw [exec_lldec, ← decodeWindow_bufRange]
  refine ⟨fun hv => ?_, fun hv hlen => ?_, fun hv hlen => ?_⟩
  · rw [runLldec_noFrame hv]; rfl
  · rw [runLldec_short hv hlen, raiseError, BitVec.ofNat_toNat, BitVec.setWidth_eq]; rfl
  · rw [runLldec_decoded hv hlen]; rfl

/-! ### Little-endian fields -/

/-- Appending a low byte, as a number (rules R7 and R40). -/
theorem toNat_append_byte {n : Nat} (hi : BitVec n) (lo : Byte) : (hi ++ lo).toNat = lo.toNat + 2 ^ 8 * hi.toNat := by
  rw [BitVec.toNat_append, ← Nat.shiftLeft_add_eq_or_of_lt lo.isLt, Nat.shiftLeft_eq]
  omega

theorem ofNat_u16le (B : List Byte) (i : Nat) : BitVec.ofNat 16 (u16le B i) = B.getD (i + 1) 0 ++ B.getD i 0 := by
  refine BitVec.eq_of_toNat_eq ?_
  have hi := (B.getD (i + 1) 0).isLt
  have lo := (B.getD i 0).isLt
  rw [toNat_append_byte, BitVec.toNat_ofNat, u16le, byteAt, byteAt]
  omega

theorem ofNat_u32le (B : List Byte) (i : Nat) :
    BitVec.ofNat 32 (u32le B i) = B.getD (i + 3) 0 ++ B.getD (i + 2) 0 ++ B.getD (i + 1) 0 ++ B.getD i 0 := by
  refine BitVec.eq_of_toNat_eq ?_
  have h3 := (B.getD (i + 3) 0).isLt
  have h2 := (B.getD (i + 2) 0).isLt
  have h1 := (B.getD (i + 1) 0).isLt
  have h0 := (B.getD i 0).isLt
  simp only [toNat_append_byte, BitVec.toNat_ofNat, u32le, byteAt]
  omega

/-! ### The decoded fields -/

/-- The fields of a wireless window with the bytes `W` (rules R141, R142, R143). -/
theorem decodeWireless_of_bytes {B : List Byte} {W : Nat → Byte} (h : ∀ j < 10, B.getD j 0 = W j) :
    decodeWireless B =
      { length := W 0, control := W 1, manuf := W 3 ++ W 2, address := W 7 ++ W 6 ++ W 5 ++ W 4, version := W 8
        devtype := W 9, rawAddress := #v[W 2, W 3, W 4, W 5, W 6, W 7, W 8, W 9]
        rawAField := #v[W 4, W 5, W 6, W 7, W 8, W 9], mfrCode := BitVec.ofNat 24 (pack3 (mfrCodes (W 3 ++ W 2)))
        aField := 0 } := by
  simp only [decodeWireless, ofNat_u16le, ofNat_u32le, h, Nat.reduceAdd, Nat.reduceLT]

/-- The fields of a wired window with the bytes `W` (rule R144). -/
theorem decodeWired_of_bytes {B : List Byte} {W : Nat → Byte} (h : ∀ j < 6, B.getD j 0 = W j) :
    decodeWired B = { LinkLayer.zero with length := W 1, control := W 4, aField := W 5 } := by
  simp only [decodeWired, h, Nat.reduceLT]

/-- `CURSOR` advanced by the window's length (rule R140). -/
theorem ofNat_cursor_add (c : Half) (n : Nat) : BitVec.ofNat 16 (c.toNat + n) = c + BitVec.ofNat 16 n := by
  rw [BitVec.ofNat_add, BitVec.ofNat_toNat, BitVec.setWidth_eq]

/-- Settles O28: the successful outcome, whose window's bytes are the bytes `W`. -/
theorem lldecWirelessFields : Obligations.LldecWirelessFields := by
  intro s W hv hk hlen hW
  obtain ⟨-, -, hok⟩ := lldecOutcomes s 10 (if_neg hk).symm
  have hll : decodeWireless (bufRange s .obuf s.cursor.toNat (s.cursor.toNat + 10)) = _ :=
    decodeWireless_of_bytes (W := W) fun j hj => by rw [hW, bufRange_getD (by omega)]
  rw [if_neg hk, hll, pack3_mfrCodes] at hok
  exact ⟨_, hok hv hlen, rfl, ofNat_cursor_add s.cursor 10, rfl, rfl, rfl, rfl, rfl, rfl, rfl, rfl, rfl, rfl, rfl, rfl,
    packBytes_zero_high (W 8) (W 9), rfl⟩

/-- Settles O29: the successful outcome, whose window has the bytes 1, 4 and 5. -/
theorem lldecWiredFields : Obligations.LldecWiredFields := by
  intro s hv hk hlen
  obtain ⟨-, -, hok⟩ := lldecOutcomes s 6 (if_pos hk).symm
  have hll : decodeWired (bufRange s .obuf s.cursor.toNat (s.cursor.toNat + 6)) = _ :=
    decodeWired_of_bytes fun j hj => bufRange_getD (by omega)
  rw [if_pos hk, hll] at hok
  exact ⟨_, hok hv hlen, rfl, ofNat_cursor_add s.cursor 6, rfl⟩

/-! ### What LLDEC depends on and what it leaves unchanged -/

/-- Two LLDEC operations ended alike: the same link layer, `CURSOR` and report (rule R147). -/
def SameLldec (s t : State) : Prop :=
  s.ll = t.ll ∧ s.llvalid = t.llvalid ∧ s.cursor = t.cursor ∧ s.err = t.err ∧ s.errKind = t.errKind ∧
    s.errCause = t.errCause ∧ s.errBlock = t.errBlock ∧ s.errExp = t.errExp ∧ s.errAct = t.errAct

section
variable {s t : State} (hcursor : s.cursor = t.cursor)
include hcursor

/-- An error of LLDEC is reported alike from every state: the link layer is cleared and `CURSOR` stays (rule R140). -/
theorem raiseError_lldecStart_sameLldec (k : ErrKind) (f : Failure) :
    SameLldec (raiseError k f (lldecStart s)) (raiseError k f (lldecStart t)) :=
  ⟨rfl, rfl, hcursor, rfl, rfl, rfl, rfl, rfl, rfl⟩

/-- LLDEC reads `OVALID`, `KIND`, `OLEN`, `CURSOR` and the window only, in each way it can end. -/
theorem runLldec_sameLldec (hs : started s) (ht : started t) (hovalid : s.ovalid = t.ovalid) (hkind : s.kind = t.kind)
    (holen : s.olen = t.olen)
    (hwindow : ∀ i, s.cursor.toNat ≤ i → i < s.cursor.toNat + windowLen cvs s.kind →
      bufByte s .obuf i = bufByte t .obuf i) :
    SameLldec (runLldec cvs s) (runLldec cvs t) := by
  by_cases hv : s.ovalid = false
  · rw [runLldec_noFrame hv, runLldec_noFrame (hovalid ▸ hv)]
    exact raiseError_lldecStart_sameLldec hcursor ..
  rw [Bool.not_eq_false] at hv
  have hv' : t.ovalid = true := hovalid ▸ hv
  by_cases hlen : s.cursor.toNat + windowLen cvs s.kind > s.olen.toNat
  · rw [runLldec_short hv hlen, runLldec_short hv' (by rwa [← hcursor, ← hkind, ← holen]), hcursor, hkind, holen]
    exact raiseError_lldecStart_sameLldec hcursor ..
  · have hlen' : s.cursor.toNat + windowLen cvs s.kind ≤ s.olen.toNat := Nat.not_lt.1 hlen
    rw [runLldec_decoded hv hlen', runLldec_decoded hv' (by rwa [← hcursor, ← hkind, ← holen]), ← hcursor, ← hkind,
      bufRange_congr hwindow]
    obtain ⟨-, -, hs⟩ := hs
    obtain ⟨-, -, ht⟩ := ht
    simp [SameLldec, hs, ht]

end

/-- Settles O30, by how the operation ends from two states that agree on its inputs. -/
theorem lldecDependsOnItsInputsOnly : Obligations.LldecDependsOnItsInputsOnly :=
  fun s t hs ht hovalid hkind holen hcursor hwindow =>
    ⟨_, _, exec_lldec s, exec_lldec t,
      runLldec_sameLldec hcursor hs ht hovalid hkind holen (windowLen_cvs s.kind ▸ hwindow)⟩

/-- Settles O31, by the frames common to LLDEC and other operations and by its own outcomes. -/
theorem lldecFrame : Obligations.LldecFrame := by
  intro s t h
  obtain ⟨hhint, hilen, harg0, harg1, -⟩ := exec_keeps_inputs h
  obtain ⟨holen, hkind, hovalid, hcells, hgen⟩ := exec_sameOutput (by decide) h
  have hibuf := exec_bufByte_ibuf h
  cases h
  obtain ⟨hcmd, hresult, hscript, hread⟩ : (runLldec cvs s).cmd = s.cmd ∧ (runLldec cvs s).result = s.result ∧
      (runLldec cvs s).script = s.script ∧ (runLldec cvs s).readData = s.readData := by
    obtain ⟨-, he⟩ | ⟨-, -, he⟩ | ⟨-, -, he⟩ := runLldec_cases s <;> rw [he] <;> exact ⟨rfl, rfl, rfl, rfl⟩
  refine ⟨hcmd, hovalid, hkind, hhint, hilen, harg0, harg1, holen, hresult, hscript, hread, fun b j => ?_⟩
  cases b with
  | ibuf => exact hibuf j
  | obuf => exact bufByte_congr (b := .obuf) hcells hgen j

end Sys2Proof.Machine
end

section
/-! PROOF. How every operation ends and what its error registers then say (rules R161, R163, R164), how long an error
stays (rule R165), and the idle block (rule R176). -/

namespace Sys2Proof.Machine

open Sys2Proof.Reference

/-! ### The end of an operation -/

/-- The error registers agree with `ERR`: all 0 without an error, the kind of the cause in one (rules R161, R163 and
R164). -/
def State.ErrorsConsistent (t : State) : Prop :=
  (t.err = false → t.errKind = .none ∧ t.errCause = .none ∧ t.errBlock = 0 ∧ t.errExp = 0 ∧ t.errAct = 0) ∧
    (t.err = true → t.errKind = causeKind t.errCause ∧ t.errKind ≠ .none)

theorem raiseError_errorsConsistent {k : ErrKind} {f : Failure} {s : State} (hk : k = causeKind f.cause)
    (hne : k ≠ .none) : (raiseError k f s).ErrorsConsistent :=
  ⟨nofun, fun _ => ⟨hk, hne⟩⟩

/-- Without an error the registers keep the 0 of the start (rule R163). -/
theorem finish_errorsConsistent {s : State} (hs : started s) : (finish s).ErrorsConsistent := by
  obtain ⟨-, -, herr, hregs⟩ := hs
  refine ⟨fun _ => hregs, fun h => ?_⟩
  cases herr.symm.trans h

theorem exec_errorsConsistent {i : Instr} {s t : State} (hs : started s) (h : exec i s = .next t) :
    t.ErrorsConsistent := by
  cases i with
  | strip =>
    cases h
    obtain ⟨k, f, he, hk, hne⟩ | ⟨out, k, he, -⟩ := runStrip_cases s <;> rw [he]
    · exact raiseError_errorsConsistent hk hne
    · exact finish_errorsConsistent hs
  | lldec =>
    cases h
    obtain ⟨-, he⟩ | ⟨-, -, he⟩ | ⟨-, -, he⟩ := runLldec_cases s <;> rw [he]
    · exact raiseError_errorsConsistent rfl nofun
    · exact raiseError_errorsConsistent rfl nofun
    · exact finish_errorsConsistent hs
  | crc16 b =>
    cases h
    obtain ⟨f, he, hk⟩ | ⟨-, -, he⟩ := runCrc16_cases b s <;> rw [he]
    · exact raiseError_errorsConsistent hk.symm nofun
    · exact finish_errorsConsistent hs
  | mfr => cases h; exact finish_errorsConsistent hs

/-- Settles O17: every operation ends by `finish` or `raiseError`, and both leave consistent error registers. -/
theorem everyOperationEnds : Obligations.EveryOperationEnds := by
  intro i s hs
  obtain ⟨t, ht, hbusy, hdone⟩ := exec_ended i s
  exact ⟨t, ht, hbusy, hdone, exec_errorsConsistent hs ht⟩

/-! ### How long an error stays -/

/-- `ERR`, `DONE` and the error registers are the same in two states (rule R165). -/
def SameErrors (s t : State) : Prop :=
  t.err = s.err ∧ t.done = s.done ∧ t.errKind = s.errKind ∧ t.errCause = s.errCause ∧ t.errBlock = s.errBlock ∧
    t.errExp = s.errExp ∧ t.errAct = s.errAct

theorem SameErrors.refl (s : State) : SameErrors s s := ⟨rfl, rfl, rfl, rfl, rfl, rfl, rfl⟩

/-- Only the write of `CMD` touches the error registers. -/
theorem writeReg_sameErrors {r : Reg} (hr : r ≠ .cmd) (v : Word) (s : State) : SameErrors s (writeReg r v s) := by
  obtain ⟨-, h⟩ | ⟨he, -⟩ | ⟨he, -⟩ | ⟨he, -⟩ | ⟨he, -⟩ | ⟨he, -⟩ | ⟨he, -⟩ := writeReg_cases r v s
  · exact absurd h hr
  all_goals rw [he]; exact .refl s

/-- The register an aligned write finds is `CMD` at offset 0 only (rule R16). -/
theorem offset_eq_zero_of_regAt_cmd {offset : Nat} (h4 : offset % 4 = 0) (h : regAt (offset / 4) = some .cmd) :
    offset = 0 := by
  have hidx : Reg.cmd.index = offset / 4 := regAt_some h
  have hzero : Reg.cmd.index = 0 := rfl
  omega

theorem hostAccess_sameErrors {a : Access} {s t : State} (h : hostAccess cvs a s = .next t)
    (hcmd : ∀ v, a ≠ .writeReg 0 4 v) : SameErrors s t := by
  obtain ⟨d, n, rfl⟩ | rfl | ⟨-, ⟨r, v, offset, rfl, h4, hat, rfl⟩ | ⟨i, v, -, -, rfl⟩⟩ := hostAccess_cases h
  · exact .refl s
  · exact .refl _
  · refine writeReg_sameErrors (fun hr => ?_) v s
    obtain rfl := offset_eq_zero_of_regAt_cmd h4 (hr ▸ hat)
    exact hcmd v rfl
  · exact .refl s

/-- In an idle block nothing but a `CMD` write or reset touches the error registers (rule R165). -/
theorem step_idle_sameErrors {s t : State} (hb : s.busy = false) (h : step s = .next t)
    (hreset : ∀ rest, s.script ≠ .reset :: rest) (hcmd : ∀ v rest, s.script ≠ .host (.writeReg 0 4 v) :: rest) :
    SameErrors s t := by
  obtain ⟨-, ht⟩ | ⟨rest, ⟨-, ht⟩ | ⟨a, hs, ha⟩ | ⟨hs, -⟩⟩ := step_cases h
  · rw [blockTurn_idle hb] at ht; cases ht
    exact .refl s
  · rw [blockTurn_idle (s := { s with script := rest }) hb] at ht; cases ht
    exact .refl s
  · exact hostAccess_sameErrors (s := { s with script := rest }) ha fun v hv => hcmd v rest (hv ▸ hs)
  · exact absurd hs (hreset rest)

/-- Settles O50: an idle step keeps the error registers, a legal `CMD` write is the accepted command, and reset clears
every register. -/
theorem errorsStayUntilNextCommandOrReset : Obligations.ErrorsStayUntilNextCommandOrReset := by
  refine ⟨fun s t => step_idle_sameErrors, fun s v i rest hb hd hs => ?_, fun s rest hs => ?_⟩
  · refine ⟨_, step_writeCmd_idle hb hs, ?_⟩
    rw [writeCmd_ok _ hd, eq_encode_of_decode hd]
    simp [started]
  · exact ⟨_, step_cons hs, rfl, rfl, rfl, rfl, rfl, rfl, rfl⟩

/-! ### The idle block -/

/-- Settles O16: with no input to come, as with the block's turn, an idle block's turn changes nothing. -/
theorem idleBlockKeepsItsState : Obligations.IdleBlockKeepsItsState := by
  refine fun s hb => ⟨fun hs => ?_, fun rest hs => ?_⟩
  · rw [step_nil hs, blockTurn_idle hb]
  · rw [step_cons hs]
    exact blockTurn_idle (s := { s with script := rest }) hb

end Sys2Proof.Machine
end

section
/-! PROOF. The reset input (rule R190), what a host access does while an operation runs (rules R44 and R195), and that a
running operation ends (rule R198). -/

namespace Sys2Proof.Machine

/-! ### The end of a running operation -/

/-- At most `n` steps lead to a state with `BUSY = 0` (rule R198). -/
def State.EndsWithin (n : Nat) (s : State) : Prop :=
  ∃ k t, k ≤ n ∧ Host.Core.run core k s = .next t ∧ t.busy = false

/-- A step, then a run. -/
theorem run_succ_of_step {s t : State} (h : step s = .next t) (k : Nat) :
    Host.Core.run core (k + 1) s = Host.Core.run core k t := by
  have hcore : core.step s = .next t := h
  simp only [Host.Core.run, hcore]

theorem endsWithin_of_idle {s : State} (n : Nat) (hb : s.busy = false) : s.EndsWithin n := ⟨0, s, n.zero_le, rfl, hb⟩

theorem endsWithin_succ_of_step {s t : State} {n : Nat} (h : step s = .next t) (ht : t.EndsWithin n) :
    s.EndsWithin (n + 1) := by
  obtain ⟨k, u, hk, hrun, hu⟩ := ht
  exact ⟨k + 1, u, Nat.succ_le_succ hk, (run_succ_of_step h k).trans hrun, hu⟩

/-- The block's turn ends the running operation, whatever its command byte (rules R163, R164, R75). -/
theorem blockTurn_ends {s : State} (hb : s.busy = true) : ∃ t, blockTurn s = .next t ∧ t.busy = false := by
  rw [blockTurn_busy hb]
  cases hd : decode s.cmd with
  | ok i =>
    obtain ⟨t, ht, hbusy, -⟩ := exec_ended i s
    exact ⟨t, (runOperation_ok hd).trans ht, hbusy⟩
  | error e => exact ⟨_, runOperation_error hd, rfl⟩

/-- While an operation runs a host access changes at most what the model itself keeps of reads (rules R44 and R195). -/
theorem hostAccess_busy_frame {p : Params} {a : Access} {s t : State} (hb : s.busy = true)
    (h : hostAccess p a s = .next t) : ∃ d n, t = { s with readData := d, busyReads := n } := by
  obtain ht | rfl | ⟨hidle, -⟩ := hostAccess_cases h
  · exact ht
  · exact ⟨t.readData, t.busyReads, rfl⟩
  · cases hb.symm.trans hidle

/-- The block's turn and reset end the operation at once; a host access leaves it running with one input less. -/
theorem endsWithin_of_script (script : List Input) {s : State} (hs : s.script = script) (hb : s.busy = true)
    (hwf : ∀ x ∈ script, x.wellFormed cvs = true) : s.EndsWithin (script.length + 1) := by
  induction script generalizing s with
  | nil =>
    obtain ⟨t, ht, hidle⟩ := blockTurn_ends hb
    exact endsWithin_succ_of_step ((step_nil hs).trans ht) (endsWithin_of_idle _ hidle)
  | cons x rest ih =>
    obtain ⟨hx, hrest⟩ := List.forall_mem_cons.1 hwf
    cases x with
    | block =>
      obtain ⟨t, ht, hidle⟩ := blockTurn_ends (s := { s with script := rest }) hb
      exact endsWithin_succ_of_step ((step_cons hs).trans ht) (endsWithin_of_idle _ hidle)
    | reset => exact endsWithin_succ_of_step (step_cons hs) (endsWithin_of_idle _ rfl)
    | host a =>
      obtain ⟨t, ht⟩ := hostAccess_next { s with script := rest } hx
      obtain ⟨d, n, rfl⟩ := hostAccess_busy_frame (s := { s with script := rest }) hb ht
      exact endsWithin_succ_of_step ((step_cons hs).trans ht) (ih rfl hb hrest)

/-- Settles O19, by induction on the inputs to come. -/
theorem busyDoesNotLastForEver : Obligations.BusyDoesNotLastForEver :=
  fun s hb hwf => endsWithin_of_script s.script rfl hb hwf

/-! ### Host writes while busy -/

/-- A write of a buffer byte while busy is ignored (rule R195). -/
theorem step_writeBuf_busy {s : State} {rest : List Input} {b : Buffer} {i : Nat} {v : Byte}
    (hs : s.script = .host (.writeBuf b i v) :: rest) (hi : i < 512) (hb : s.busy = true) :
    step s = .next { s with script := rest } := by
  simp [step_writeBuf hs hi, hostWrite, hb]

/-- Settles O6, by the rules for the two kinds of write. -/
theorem writesWhileBusyAreIgnored : Obligations.WritesWhileBusyAreIgnored := fun _ _ hb =>
  ⟨fun _ _ hs => step_writeReg_busy hs hb, fun _ _ _ hi hs => step_writeBuf_busy hs hi hb⟩

/-! ### The reset input -/

theorem step_reset {s : State} {rest : List Input} (hs : s.script = .reset :: rest) :
    step s = .next (resetInput { s with script := rest }) := step_cons hs

/-- Every register reads 0 after the reset input: it reads as in `State.reset` (rules R30 and R190). -/
theorem readReg_resetInput (s : State) (r : Reg) : readReg (resetInput s) r = 0 := by
  obtain ⟨hzero, -⟩ := resetStateIsZero
  have hsame : readReg (resetInput s) r = readReg State.reset r := by cases r <;> rfl
  rw [hsame, hzero]

/-- The reset input makes every byte of both buffers a free value of the next generation (rule R190, log entry 2). -/
theorem bufByte_resetInput (s : State) (b : Buffer) (i : Nat) :
    bufByte (resetInput s) b i = Config.unspecifiedByte b (bufGen s b + 1) i := by cases b <;> rfl

/-- Settles O14: what each register reads as and each byte, and the fields one by one. -/
theorem resetInputClearsEverything : Obligations.ResetInputClearsEverything := by
  refine fun s rest hs => ⟨_, step_reset hs, resetInput_script _, readReg_resetInput _, ?_⟩
  have hbuf : ∀ b i, bufByte (resetInput { s with script := rest }) b i = Config.unspecifiedByte b (bufGen s b + 1) i :=
    bufByte_resetInput { s with script := rest }
  simp [hbuf]

end Sys2Proof.Machine
end
